-- ==== Sys2Proof/Word.lean ====
section
/-! DEFINITION. The words of the block and the colour types (00_scope R6, R7; 43_palette_color_cycler R140). -/

namespace Sys2Proof

/-- An 8-bit unsigned register value: `X`, `Y`, `MASK` or `LC` (10_state R34). -/
abbrev Byte := BitVec 8

/-- A 4-bit unsigned value: `CIDX` or a palette index (10_state R34, 20_memory R53). -/
abbrev Nibble := BitVec 4

/-- A 40-bit command word, bit 0 least significant (30_encoding R60). -/
abbrev CommandWord := BitVec 40

/-- An 18-bit write record (30_encoding R67). -/
abbrev RecordWord := BitVec 18

/-- A 36-bit snapshot word (30_encoding R68). -/
abbrev SnapshotWord := BitVec 36

/-- A channel level of a colour: 0 off, 1 half, 2 full; level 3 does not occur (R140). -/
inductive Level where
  | off
  | half
  | full
deriving DecidableEq, Repr, Inhabited

/-- A colour: the levels of red, green and blue (R140). -/
structure Colour where
  r : Level
  g : Level
  b : Level
deriving DecidableEq, Repr, Inhabited

/-- Which channels of a palette entry are lit: the "primaries/combinations" of R141 (c), (d), that is,
every set of channels that holds at least one. -/
inductive Hue where
  | red
  | green
  | yellow
  | blue
  | magenta
  | cyan
  | white
deriving DecidableEq, Repr, Inhabited

end Sys2Proof
end

