-- ==== Sys2Proof/Machine/Mapper.lean ====
section
/-! DEFINITION. The kaleidoscope symmetry mapper (42_symmetry_mapper). -/

namespace Sys2Proof.Machine

open Sys2Proof

/-- Rescale to grid space: `v div 8`, bits [7:3] (R120). -/
def rescale (v : Byte) : BitVec 5 := v.extractLsb' 3 5

/-- `g + 32` in 6 bits: the right column or the lower row (R121, R123). -/
def outward (g : BitVec 5) : BitVec 6 := g.setWidth 6 + 32#6

/-- `32 - g` in 6 bits: the left column or the upper row (R121, R123). -/
def inward (g : BitVec 5) : BitVec 6 := 32#6 - g.setWidth 6

/-- The four mirrored (column, row) pairs, W0 lower-right, W1 lower-left, W2 upper-left, W3 upper-right (R121, R122). -/
def mirrored (gx gy : BitVec 5) : List (BitVec 6 × BitVec 6) :=
  [(outward gx, outward gy), (inward gx, outward gy), (inward gx, inward gy), (outward gx, inward gy)]

end Sys2Proof.Machine
end

