-- ==== Sys2Proof/Machine/Flags.lean ====
section
/-! DEFINITION. The three conditions of a TICK (10_state R28): computed inside the TICK, never stored. -/

namespace Sys2Proof.Machine

open Sys2Proof

/-- Parity (R28 (a), 43_palette_color_cycler R144): `LC`, as it was before the tick, is even. -/
def blank (lc : Byte) : Bool := !lc.getLsbD 0

/-- Jump (R28 (b), 44_update_sequencer R161): the decremented `LC` is 0. -/
def jump (lc1 : Byte) : Bool := lc1 == 0

/-- Colour wrap (R28 (c), 43_palette_color_cycler R147): the decremented `CIDX` is 0. -/
def colourWrap (ci1 : Nibble) : Bool := ci1 == 0

end Sys2Proof.Machine
end

