-- ==== Sys2Proof/Machine/Operands.lean ====
section
/-! DEFINITION. The operand checks of LOAD and of reset (40_commands R85, 70_reset_and_hazards R201). The operands
themselves are the fields of the command word, unsigned and unshifted (30_encoding R62), which decode pulls out. -/

namespace Sys2Proof.Machine

open Sys2Proof

/-- LOAD's operands are legal: `lcidx` is not 0, `llc` is not 0 and not above 63 (R85). -/
def loadLegal (lcidx : Nibble) (llc : Byte) : Bool :=
  !(lcidx == 0 || llc == 0 || decide (63 < llc.toNat))

/-- A seed is in reset's domain: `scolor` is not 0 (R201). -/
def seedLegal (scolor : Nibble) : Bool := !(scolor == 0)

end Sys2Proof.Machine
end

