-- ==== Sys2Proof/Syntax.lean ====
section
/-! DEFINITION. The commands: one constructor for each row of spec/opcode_table.json. -/

namespace Sys2Proof

/-- A command of the block (30_encoding R60, R61). -/
inductive Instr where
  /-- NOP (40_commands R81). -/
  | nop
  /-- TICK (40_commands R82). -/
  | tick
  /-- LOAD, with its five fields (40_commands R84, 30_encoding R62). -/
  | load (lx ly lmask : Byte) (lcidx : Nibble) (llc : Byte)
deriving DecidableEq, Repr

end Sys2Proof
end

