-- ==== Sys2Proof/Decode.lean ====
section
/-! DEFINITION. Decoding and encoding of command words (30_encoding R60 to R64). -/

namespace Sys2Proof

/-- Why a command word or a reset is refused: the four reasons of 60_exceptions R181. -/
inductive RefusalReason where
  /-- Raised by decode where `op = 0b11` (R63). Safe: the run ends. -/
  | reservedOpcode
  /-- Raised by decode where a reserved bit is 1 (R63). Safe: the run ends. -/
  | reservedBits
  /-- Raised by LOAD where `lcidx = 0`, `llc = 0` or `llc > 63` (40_commands R85). Safe: the run ends. -/
  | illegalLoad
  /-- Raised by reset where the seed `scolor = 0` (70_reset_and_hazards R201). Safe: the run ends. -/
  | illegalSeed
deriving DecidableEq, Repr

/-- `op`, bits [1:0] (R60). -/
def opField (w : CommandWord) : BitVec 2 := w.extractLsb' 0 2

/-- Bits [39:2], reserved for NOP and TICK (R60). -/
def upperField (w : CommandWord) : BitVec 38 := w.extractLsb' 2 38

/-- `rsv`, bits [3:2] (R60). -/
def rsvField (w : CommandWord) : BitVec 2 := w.extractLsb' 2 2

/-- `lx`, bits [11:4] (R60). -/
def lxField (w : CommandWord) : Byte := w.extractLsb' 4 8

/-- `ly`, bits [19:12] (R60). -/
def lyField (w : CommandWord) : Byte := w.extractLsb' 12 8

/-- `lmask`, bits [27:20] (R60). -/
def lmaskField (w : CommandWord) : Byte := w.extractLsb' 20 8

/-- `lcidx`, bits [31:28] (R60). -/
def lcidxField (w : CommandWord) : Nibble := w.extractLsb' 28 4

/-- `llc`, bits [39:32] (R60). -/
def llcField (w : CommandWord) : Byte := w.extractLsb' 32 8

/-- Decoding, total on every 40-bit word, in the order of R63 (and 60_exceptions R182). -/
def decode (w : CommandWord) : Except RefusalReason Instr :=
  if opField w = 0b11#2 then .error .reservedOpcode
  else if opField w = 0b00#2 ∧ upperField w ≠ 0 then .error .reservedBits
  else if opField w = 0b01#2 ∧ upperField w ≠ 0 then .error .reservedBits
  else if opField w = 0b10#2 ∧ rsvField w ≠ 0 then .error .reservedBits
  else if opField w = 0b00#2 then .ok .nop
  else if opField w = 0b01#2 then .ok .tick
  else .ok (.load (lxField w) (lyField w) (lmaskField w) (lcidxField w) (llcField w))

/-- The word of a command, by R60's patterns. -/
def encode : Instr → CommandWord
  | .nop => 0x0000000000#40
  | .tick => 0x0000000001#40
  | .load lx ly lmask lcidx llc => llc ++ lcidx ++ lmask ++ ly ++ lx ++ 0b0010#4

/-- The command that `decode` reads from the first `nbits` bits of `w`, the bits above them zero; none where it
refuses, or where a bit outside the 40-bit word is 1 (a decoder takes exactly 40 bits, R60). -/
def decodeTableWord (nbits w : Nat) : Option Instr :=
  if w % 2 ^ nbits < 2 ^ 40 then
    match decode (BitVec.ofNat 40 (w % 2 ^ nbits)) with
    | .ok i => some i
    | .error _ => none
  else none

end Sys2Proof
end

