-- ==== Sys2Proof/Machine/State.lean ====
section
/-! DEFINITION. The state of the block and of a run (10_state R20, 70_reset_and_hazards R208), the reasons a step can
stop, and the state after reset. -/

namespace Sys2Proof.Machine

open Sys2Proof

/-- The block raises no exception and takes no trap (60_exceptions R180), and no access can miss the grid (20_memory
R43): no step faults, so this type has no constructor. -/
inductive Fault where
deriving DecidableEq, Repr

/-- Why a step has no meaning. -/
inductive Refusal where
  /-- Raised by an arm of `exec` whose command has no meaning yet (none is left). Safe. -/
  | notModelled (mnemonic : String)
  /-- Raised by `step` where the refusal mark is already set: "gives the run no further meaning" (R181). It carries the
  mark. Safe: the model says nothing more of such a run. -/
  | runAlreadyRefused (reason : RefusalReason) (index : Nat)
deriving DecidableEq, Repr

/-- The refusal mark: the reason, and the index of the command refused (60_exceptions R181). -/
structure RefusalMark where
  reason : RefusalReason
  index : Nat
deriving DecidableEq, Repr

/-- What the host sends (70_reset_and_hazards R207): a command word, or reset with its four seeds (R200, R201). -/
inductive HostInput where
  | command (w : CommandWord)
  | reset (sx sy smask : Byte) (scolor : Nibble)
deriving DecidableEq, Repr

/-- The grid store (10_state R32): the cells that hold a colour, as (flat address, colour) pairs in strictly rising
address order; an unlisted cell is `none`, never written (log 3, 5). -/
abbrev Memory := List (Nat × Colour)

/-- The whole state. -/
structure State where
  /-- `X`, the horizontal phase accumulator (10_state R21). -/
  x : Byte
  /-- `Y`, the vertical phase accumulator (R22). -/
  y : Byte
  /-- `MASK` (R23). -/
  mask : Byte
  /-- `CIDX`, the current palette index (R24). -/
  cidx : Nibble
  /-- `LC`, the loop counter (R25). -/
  lc : Byte
  /-- The grid store (R32). -/
  grid : Memory
  /-- The refusal mark, if a refusal is recorded (60_exceptions R181). -/
  refusal : Option RefusalMark
  /-- The host's inputs still to come, the next one first (70_reset_and_hazards R208). -/
  pending : List HostInput
  /-- The index of the next command word (10_state R27, R208). -/
  position : Nat
  /-- The write records of each TICK so far: one list per TICK, the oldest TICK first, W0 first in each (R166, R208). -/
  trace : List (List RecordWord)
  /-- The MODEL's own field: how many open values have been taken from `Config.colourBelowZero` (log 8). -/
  draws : Nat
deriving DecidableEq, Repr

/-- The machine right after reset (70_reset_and_hazards R200), at the start of a run (R208): `LC` is 63, the grid is new,
no refusal is recorded. DESIGN CHOICE (log 2): the seeds are `sx = sy = smask = 0`, `scolor = 15`; every other seed is
reached by a `HostInput.reset`. -/
def State.reset : State where
  x := 0
  y := 0
  mask := 0
  cidx := 15
  lc := 63
  grid := []
  refusal := none
  pending := []
  position := 0
  trace := []
  draws := 0

end Sys2Proof.Machine
end

