-- ==== Sys2Proof/Machine/Output.lean ====
section
/-! DEFINITION. The output encodings: write records and the snapshot (30_encoding R67, R68). -/

namespace Sys2Proof.Machine

open Sys2Proof

/-- One grid write: a column, a row and a colour (00_scope R9, 20_memory R41). -/
structure GridWrite where
  col : BitVec 6
  row : BitVec 6
  colour : Colour
deriving DecidableEq, Repr

/-- A level in 2 bits (R67, 43_palette_color_cycler R140). -/
def levelBits (l : Level) : BitVec 2 :=
  match l with
  | .off => 0#2
  | .half => 1#2
  | .full => 2#2

/-- A level as the number R140 gives it: 0 off, 1 half, 2 full. -/
def levelValue (l : Level) : Nat :=
  match l with
  | .off => 0
  | .half => 1
  | .full => 2

/-- The level of 2 bits; 3 is no level (R140). -/
def levelOfBits (b : BitVec 2) : Option Level :=
  if b = 0#2 then some .off else if b = 1#2 then some .half else if b = 2#2 then some .full else none

/-- The 18-bit write record `{r, g, b, row, col}` (R67). -/
def recordOf (w : GridWrite) : RecordWord :=
  levelBits w.colour.r ++ levelBits w.colour.g ++ levelBits w.colour.b ++ w.row ++ w.col

/-- The write a record stands for (R67: "The record's effect on the grid store"); none where a channel reads 3. -/
def writeOfRecord (v : RecordWord) : Option GridWrite :=
  match levelOfBits (v.extractLsb' 16 2), levelOfBits (v.extractLsb' 14 2), levelOfBits (v.extractLsb' 12 2) with
  | some r, some g, some b => some ⟨v.extractLsb' 0 6, v.extractLsb' 6 6, ⟨r, g, b⟩⟩
  | _, _, _ => none

/-- The 36-bit snapshot word `{LC, CIDX, MASK, Y, X}` (R68, 10_state R30). -/
def State.snapshot (s : State) : SnapshotWord := s.lc ++ s.cidx ++ s.mask ++ s.y ++ s.x

end Sys2Proof.Machine
end

