-- ==== Sys2Proof/Config.lean ====
section
/-! DEFINITION. What the spec leaves to the implementation (00_scope R5), and the model's one open value. Each is opaque:
nothing can be proved of its value. -/

namespace Sys2Proof

/-- PALETTE (00_scope R5, 43_palette_color_cycler R141, 93 I1): which channels entry `i` lights, for `i` in [1,7] and
[9,14]. The constraints of R141 hold by the way `Machine.paletteOf` uses it. -/
opaque Config.hue : Nibble → Hue

/-- DESIGN CHOICE (log 8): the value of `CIDX - 1` at a jump from `CIDX = 0`, which the spec does not state (93 I4,
91 N6); applied to `State.draws`, so that each use is a fresh value. -/
opaque Config.colourBelowZero : Nat → Nibble

/-- TICK_RATE_HZ (00_scope R5, 60_exceptions R187): no rule reads it, and no definition of the model does (log 9). -/
opaque Config.tickRateHz : Nat

end Sys2Proof
end

