-- ==== Sys2Proof/Machine/Palette.lean ====
section
/-! DEFINITION. The palette, the palette indexer and the colour decrement (43_palette_color_cycler). -/

namespace Sys2Proof.Machine

open Sys2Proof

/-- Black, `(0,0,0)` (R140). -/
def black : Colour := ⟨.off, .off, .off⟩

/-- White, `(2,2,2)` (R140). -/
def white : Colour := ⟨.full, .full, .full⟩

/-- The colour that lights the channels of a hue at one level. -/
def hueAt (h : Hue) (l : Level) : Colour :=
  match h with
  | .red => ⟨l, .off, .off⟩
  | .green => ⟨.off, l, .off⟩
  | .yellow => ⟨l, l, .off⟩
  | .blue => ⟨.off, .off, l⟩
  | .magenta => ⟨l, .off, l⟩
  | .cyan => ⟨.off, l, l⟩
  | .white => ⟨l, l, l⟩

/-- The palette with the given assignment of hues: entries 0 and 8 black, 15 white, 1 to 7 dim, 9 to 14 full (R141). -/
def paletteOf (hue : Nibble → Hue) (i : Nibble) : Colour :=
  if i = 0#4 ∨ i = 8#4 then black
  else if i = 15#4 then white
  else if i.toNat < 8 then hueAt (hue i) .half
  else hueAt (hue i) .full

/-- `PAL`, the block's palette: the parameter `Config.hue` decides what R141 leaves open (00_scope R5, log 4). -/
def pal (i : Nibble) : Colour := paletteOf Config.hue i

/-- A level of the default palette: lit at full where the intensity bit is 1, at half where it is 0 (R142). -/
def defaultLevel (lit intensity : Bool) : Level :=
  if lit then (if intensity then .full else .half) else .off

/-- PRESUMED (log 11, 93 G1): the default PALETTE of R142, from general knowledge: bit 0 red, bit 1 green, bit 2 blue,
bit 3 intensity. No step uses it. -/
def defaultPalette (i : Nibble) : Colour :=
  ⟨defaultLevel (i.getLsbD 0) (i.getLsbD 3), defaultLevel (i.getLsbD 1) (i.getLsbD 3),
    defaultLevel (i.getLsbD 2) (i.getLsbD 3)⟩

/-- `idx`: 0 where the tick is blanked, else `CIDX` (R145). -/
def drawIndex (lc : Byte) (cidx : Nibble) : Nibble := if blank lc then 0#4 else cidx

/-- `rgb`, the colour of the tick's four writes (R145). -/
def drawColour (lc : Byte) (cidx : Nibble) : Colour := pal (drawIndex lc cidx)

/-- `ci1 = CIDX - 1`, exact for `CIDX` in [1,15] (R146). From `CIDX = 0` the spec states no result (93 I4, 91 N6): a free
value, DESIGN CHOICE (log 8). -/
def decrementColour (cidx : Nibble) (draws : Nat) : Nibble :=
  if cidx = 0#4 then Config.colourBelowZero draws else cidx - 1#4

end Sys2Proof.Machine
end

