-- ==== Sys2Proof/Machine/Ops.lean ====
section
/-! DEFINITION. The named operations over the grid store and the registers, the recording of a refusal and reset. The
block takes no exception and returns from none (60_exceptions R180, R185); `State.refuse` is its one way to turn an input
down (R181). -/

namespace Sys2Proof.Machine

open Sys2Proof

/-- The flat address of a cell: `{row, col}`, that is, `row * 64 + col` (20_memory R41). -/
def gridAddress (col row : BitVec 6) : BitVec 12 := row ++ col

/-- What the cell at a flat address holds; `none` where nothing was ever written (10_state R32). -/
def Memory.read : Memory → Nat → Option Colour
  | [], _ => none
  | (b, u) :: m, a => if a = b then some u else Memory.read m a

/-- Set the cell at a flat address, and no other (20_memory R44), keeping addresses rising. -/
def Memory.write : Memory → Nat → Colour → Memory
  | [], a, v => [(a, v)]
  | (b, u) :: m, a, v =>
    if a < b then (a, v) :: (b, u) :: m
    else if a = b then (a, v) :: m
    else (b, u) :: Memory.write m a v

/-- The addresses of `m` rise strictly, from at least `low`, and stay below 4096 (20_memory R41). -/
def Memory.risingFrom : Nat → Memory → Bool
  | _, [] => true
  | low, (a, _) :: m => decide (low ≤ a) && decide (a < 4096) && Memory.risingFrom (a + 1) m

/-- The canonical form: strictly rising addresses inside the grid. No entry can equal what an unlisted cell reads as,
since every entry holds a colour and an unlisted cell reads as `none`. -/
def Memory.wf (m : Memory) : Bool := Memory.risingFrom 0 m

/-- `GridWrite(col, row, v)` on the grid store (44_update_sequencer R165). -/
def Memory.gridWrite (m : Memory) (w : GridWrite) : Memory :=
  Memory.write m (gridAddress w.col w.row).toNat w.colour

/-- Writes applied in the order given, so that the last one to a cell stays (20_memory R46, R47). -/
def Memory.gridWrites : Memory → List GridWrite → Memory
  | m, [] => m
  | m, w :: ws => Memory.gridWrites (Memory.gridWrite m w) ws

/-- What a cell of the grid store holds. No command reads it (R40); an observer does (R208). -/
def State.cell (s : State) (col row : BitVec 6) : Option Colour :=
  Memory.read s.grid (gridAddress col row).toNat

/-- Issue a TICK's writes: apply them to the grid store in order and emit their records (44_update_sequencer R165,
R166). -/
def State.issueWrites (s : State) (ws : List GridWrite) : State :=
  { s with grid := Memory.gridWrites s.grid ws, trace := s.trace ++ [ws.map recordOf] }

/-- Commit a position (41_phase_accumulator R104). -/
def State.commitPosition (s : State) (nx ny : Byte) : State := { s with x := nx, y := ny }

/-- The jump bump (R106). -/
def State.bumpPosition (s : State) : State := { s with x := s.x + 1, y := s.y + 1 }

/-- The mask increment (R107). -/
def State.bumpMask (s : State) : State := { s with mask := s.mask + 1 }

/-- Write `CIDX` (43_palette_color_cycler R146, R147). -/
def State.setColour (s : State) (c : Nibble) : State := { s with cidx := c }

/-- Write `LC` (44_update_sequencer R160, R162). -/
def State.setCounter (s : State) (n : Byte) : State := { s with lc := n }

/-- The model's own bookkeeping: an open value has been taken (log 8). -/
def State.countDraw (s : State) : State := { s with draws := s.draws + 1 }

/-- Write all five registers at once (40_commands R84, 70_reset_and_hazards R200). -/
def State.loadRegisters (s : State) (x y mask : Byte) (cidx : Nibble) (lc : Byte) : State :=
  { s with x := x, y := y, mask := mask, cidx := cidx, lc := lc }

/-- Record a refusal with its reason and the index of the command; a mark already set stays, and nothing else changes
(60_exceptions R181). -/
def State.refuse (s : State) (r : RefusalReason) : State :=
  { s with refusal := some (s.refusal.getD ⟨r, s.position⟩) }

/-- Reset with seeds: the four seeds and `LC = 63`; the grid store and the mark stay (70_reset_and_hazards R200). A seed
`scolor = 0` is refused (R201). -/
def State.applyReset (s : State) (sx sy smask : Byte) (scolor : Nibble) : State :=
  if seedLegal scolor then s.loadRegisters sx sy smask scolor 63#8 else s.refuse .illegalSeed

/-- The host's next input is a command word that has been taken: the run's position moves on (R208). -/
def State.takeCommand (s : State) : State := { s with pending := s.pending.tail, position := s.position + 1 }

/-- The host's next input is a reset that has been taken: the position, which counts command words, stays (R208). -/
def State.takeReset (s : State) : State := { s with pending := s.pending.tail }

end Sys2Proof.Machine
end

