-- ==== Sys2Proof/Machine/Phase.lean ====
section
/-! DEFINITION. The phase accumulator's stages (41_phase_accumulator), modulo 256 throughout (00_scope R8). -/

namespace Sys2Proof.Machine

open Sys2Proof

/-- A masked shifted step: `(v >> 2) & MASK`, of R100 and R102. -/
def maskedStep (v mask : Byte) : Byte := (v >>> 2) &&& mask

/-- `d`, the first masked step (R100). -/
def firstStep (x mask : Byte) : Byte := maskedStep x mask

/-- `ny`, the new vertical accumulator (R101). -/
def newY (x y mask : Byte) : Byte := y + firstStep x mask

/-- `d2`, the second masked step: it reads `ny`, not the old `Y` (R102). -/
def secondStep (x y mask : Byte) : Byte := maskedStep (newY x y mask) mask

/-- `nx`, the new horizontal accumulator, from the old `X` (R103). -/
def newX (x y mask : Byte) : Byte := x - secondStep x y mask

end Sys2Proof.Machine
end

