-- ==== Sys2Proof/Machine/Sequencer.lean ====
section
/-! DEFINITION. The grid-cell update sequencer and the colour cycler's step (44_update_sequencer R160 to R164;
43_palette_color_cycler R146, R147). -/

namespace Sys2Proof.Machine

open Sys2Proof

/-- The position a TICK commits, before any jump bump: `nx` of the state (41_phase_accumulator R103). -/
def State.nextX (s : State) : Byte := newX s.x s.y s.mask

/-- `ny` of the state (R101). -/
def State.nextY (s : State) : Byte := newY s.x s.y s.mask

/-- The colour a TICK draws in this state (43_palette_color_cycler R145). -/
def State.tickColour (s : State) : Colour := drawColour s.lc s.cidx

/-- The four grid writes of a TICK, W0 to W3, in order (44_update_sequencer R164). -/
def State.tickWrites (s : State) : List GridWrite :=
  (mirrored (rescale s.nextX) (rescale s.nextY)).map fun p => ⟨p.1, p.2, s.tickColour⟩

/-- The colour cycler's step at a jump, with the mask increment at a colour wrap (43 R146, R147; 41 R107). -/
def State.stepColour (s : State) : State :=
  let ci1 := decrementColour s.cidx s.draws
  let t := if s.cidx = 0#4 then s.countDraw else s
  if colourWrap ci1 then (t.setColour 15#4).bumpMask else t.setColour ci1

/-- The loop counter's decrement, modulo 256, and the jump event (44_update_sequencer R160 to R162). -/
def State.countDown (s : State) : State :=
  let lc1 := s.lc - 1#8
  if jump lc1 then ((s.setCounter 63#8).bumpPosition).stepColour else s.setCounter lc1

end Sys2Proof.Machine
end

