-- ==== Sys2Proof/Machine/Commands.lean ====
section
/-! DEFINITION. The meanings of NOP, TICK and LOAD (40_commands). -/

namespace Sys2Proof.Machine

open Sys2Proof

/-- NOP: no register, grid or palette access (R81). -/
def execNop (s : State) : Host.Outcome State Fault Refusal := .next s

/-- TICK: the four writes and the new position are formed from the state before it, then the position is committed,
then the loop counter steps (R82, in the read order of R83). -/
def execTick (s : State) : Host.Outcome State Fault Refusal :=
  .next (((s.issueWrites s.tickWrites).commitPosition s.nextX s.nextY).countDown)

/-- LOAD: all five registers at once (R84), or the refusal IllegalLoad, which changes nothing else (R85). -/
def execLoad (lx ly lmask : Byte) (lcidx : Nibble) (llc : Byte) (s : State) : Host.Outcome State Fault Refusal :=
  if loadLegal lcidx llc then .next (s.loadRegisters lx ly lmask lcidx llc) else .next (s.refuse .illegalLoad)

end Sys2Proof.Machine
end

