-- ==== Sys2Proof/Machine/Fetch.lean ====
section
/-! DEFINITION. Taking the host's next input: a command word, decoded and executed, or a reset (70_reset_and_hazards
R207, R208). -/

namespace Sys2Proof.Machine

open Sys2Proof

/-- Decode a command word and execute it; a refusal at decode is recorded and changes nothing else (30_encoding R63,
60_exceptions R181). -/
def runWord (w : CommandWord) (s : State) : Host.Outcome State Fault Refusal :=
  match decode w with
  | .ok i => exec i s
  | .error r => .next (s.refuse r)

/-- Apply a state update to a next state; a stop stays a stop. -/
def mapNext (f : State → State) (o : Host.Outcome State Fault Refusal) : Host.Outcome State Fault Refusal :=
  match o with
  | .next t => .next (f t)
  | .fault r => .fault r
  | .refused r => .refused r

/-- One input of the host, as one atomic step (40_commands R80). -/
def runInput (h : HostInput) (s : State) : Host.Outcome State Fault Refusal :=
  match h with
  | .command w => mapNext State.takeCommand (runWord w s)
  | .reset sx sy smask scolor => .next (s.applyReset sx sy smask scolor).takeReset

/-- The host's inputs with a command word placed before those still to come: what `State.withFetchWord` needs. -/
def placeCommand (nbits w : Nat) (inputs : List HostInput) : List HostInput :=
  .command (BitVec.ofNat 40 (w % 2 ^ nbits)) :: inputs

end Sys2Proof.Machine
end

