-- ==== Sys2Proof/Machine/Step.lean ====
section
/-! DEFINITION. One step of a run (70_reset_and_hazards R208). -/

namespace Sys2Proof.Machine

open Sys2Proof

/-- One step: a run whose refusal mark is set has no further meaning (60_exceptions R181); with nothing pending the
block is idle and keeps its state (R191); else the host's next input is taken. -/
def step (s : State) : Host.Outcome State Fault Refusal :=
  match s.refusal with
  | some m => .refused (.runAlreadyRefused m.reason m.index)
  | none =>
    match s.pending with
    | [] => .next s
    | h :: _ => runInput h s

/-- `s` with the command word of `w`'s first `nbits` bits as the host's next input (log 1). -/
def State.withFetchWord (s : State) (nbits w : Nat) : State :=
  { s with pending := placeCommand nbits w s.pending }

end Sys2Proof.Machine
end

