-- ==== Sys2Proof/Machine/Assembler.lean ====
section
/-! DEFINITION. The spec's assembler: its lines, what they expand to, and how a line of text is read (30_encoding R65,
R66). It stands beside the machine: no step uses it. Text is a list of characters, one line at a time (log 12). -/

namespace Sys2Proof.Machine

open Sys2Proof

/-- A line of assembly: the three mnemonics and `.word` (R65), and the pseudo-instructions (R66). -/
inductive AsmLine where
  | nop
  | tick
  | load (x y mask color lc : Nat)
  | raw (v : Nat)
  | ticks (n : Nat)
  | seed (x y mask color : Nat)
  | restore (s : Nat)
deriving DecidableEq, Repr

/-- The word of `LOAD x, y, mask, color, lc`; none where an operand is outside its field's width (R65). -/
def assembleLoad (x y mask color lc : Nat) : Option CommandWord :=
  if x < 256 ∧ y < 256 ∧ mask < 256 ∧ color < 16 ∧ lc < 256 then
    some (encode (.load (BitVec.ofNat 8 x) (BitVec.ofNat 8 y) (BitVec.ofNat 8 mask) (BitVec.ofNat 4 color)
      (BitVec.ofNat 8 lc)))
  else none

/-- The word of `RESTORE s`: `(s << 4) | 0b0010` (R66). -/
def restoreWord (s : SnapshotWord) : CommandWord := (s.setWidth 40 <<< 4) ||| 0b0010#40

/-- The words a line expands to; none where the assembler refuses an operand (R65, R66). -/
def assemble : AsmLine → Option (List CommandWord)
  | .nop => some [encode .nop]
  | .tick => some [encode .tick]
  | .load x y mask color lc => (assembleLoad x y mask color lc).map fun w => [w]
  | .raw v => if v < 2 ^ 40 then some [BitVec.ofNat 40 v] else none
  | .ticks n => some (List.replicate n (encode .tick))
  | .seed x y mask color => (assembleLoad x y mask color 63).map fun w => [w]
  | .restore s => if s < 2 ^ 36 then some [restoreWord (BitVec.ofNat 36 s)] else none

/-- A space or a tab. -/
def isBlank (c : Char) : Bool := c == ' ' || c == '\t'

/-- Without the spaces at both ends. -/
def trimBlanks (cs : List Char) : List Char :=
  ((cs.dropWhile isBlank).reverse.dropWhile isBlank).reverse

/-- The operand texts between commas. -/
def splitCommas : List Char → List (List Char)
  | [] => [[]]
  | c :: cs =>
    match splitCommas cs with
    | [] => [[c]]
    | f :: fs => if c == ',' then [] :: f :: fs else (c :: f) :: fs

/-- A digit's value in base 10 or 16. -/
def digitValue (base : Nat) (c : Char) : Option Nat :=
  let n := c.toNat
  let v := if 48 ≤ n ∧ n ≤ 57 then n - 48 else if 97 ≤ n ∧ n ≤ 102 then n - 87
    else if 65 ≤ n ∧ n ≤ 70 then n - 55 else base
  if v < base then some v else none

/-- The number that digits spell after `acc`. -/
def digitsFrom (base acc : Nat) : List Char → Option Nat
  | [] => some acc
  | c :: cs =>
    match digitValue base c with
    | some v => digitsFrom base (acc * base + v) cs
    | none => none

/-- A number, decimal or `0x` hexadecimal (R65). -/
def parseNumber : List Char → Option Nat
  | [] => none
  | ['0', 'x'] => none
  | '0' :: 'x' :: cs => digitsFrom 16 0 cs
  | cs => digitsFrom 10 0 cs

/-- All operand texts as numbers. -/
def parseNumbers : List (List Char) → Option (List Nat)
  | [] => some []
  | t :: ts =>
    match parseNumber (trimBlanks t), parseNumbers ts with
    | some n, some ns => some (n :: ns)
    | _, _ => none

/-- The operands after a mnemonic; none at all where nothing stands there. -/
def parseOperands (cs : List Char) : Option (List Nat) :=
  if trimBlanks cs = [] then some [] else parseNumbers (splitCommas cs)

/-- The mnemonic is `upper` or `lower` (R65: "in upper or lower case"). -/
def isMnemonic (cs upper lower : List Char) : Bool := cs == upper || cs == lower

/-- A mnemonic with its operands. -/
def lineOf (m : List Char) (ops : List Nat) : Option AsmLine :=
  if isMnemonic m ['N', 'O', 'P'] ['n', 'o', 'p'] then
    match ops with
    | [] => some .nop
    | _ => none
  else if isMnemonic m ['T', 'I', 'C', 'K'] ['t', 'i', 'c', 'k'] then
    match ops with
    | [] => some .tick
    | _ => none
  else if isMnemonic m ['L', 'O', 'A', 'D'] ['l', 'o', 'a', 'd'] then
    match ops with
    | [x, y, mask, color, lc] => some (.load x y mask color lc)
    | _ => none
  else if isMnemonic m ['.', 'W', 'O', 'R', 'D'] ['.', 'w', 'o', 'r', 'd'] then
    match ops with
    | [v] => some (.raw v)
    | _ => none
  else if isMnemonic m ['T', 'I', 'C', 'K', 'S'] ['t', 'i', 'c', 'k', 's'] then
    match ops with
    | [n] => some (.ticks n)
    | _ => none
  else if isMnemonic m ['S', 'E', 'E', 'D'] ['s', 'e', 'e', 'd'] then
    match ops with
    | [x, y, mask, color] => some (.seed x y mask color)
    | _ => none
  else if isMnemonic m ['R', 'E', 'S', 'T', 'O', 'R', 'E'] ['r', 'e', 's', 't', 'o', 'r', 'e'] then
    match ops with
    | [s] => some (.restore s)
    | _ => none
  else none

/-- The words of one line of text: none where the assembler refuses it, no words for an empty line or a comment. -/
def assembleText (line : List Char) : Option (List CommandWord) :=
  let code := trimBlanks (line.takeWhile (fun c => c != ';'))
  if code = [] then some []
  else
    match parseOperands (code.dropWhile (fun c => !isBlank c)) with
    | none => none
    | some ops =>
      match lineOf (code.takeWhile (fun c => !isBlank c)) ops with
      | none => none
      | some l => assemble l

/-- The words of a program, one line after another (R65). -/
def assembleProgram : List (List Char) → Option (List CommandWord)
  | [] => some []
  | l :: ls =>
    match assembleText l, assembleProgram ls with
    | some ws, some vs => some (ws ++ vs)
    | _, _ => none

end Sys2Proof.Machine
end

