-- ==== Sys2Proof/Safety.lean ====
section
/-! DEFINITION. Runs, what is observed of them, and what holds of every state a run reaches (10_state R33,
70_reset_and_hazards R205, R208). -/

namespace Sys2Proof.Machine

open Sys2Proof

/-- The stored values R33 allows: `CIDX` in [1,15], `LC` in [1,63]; every value of `X`, `Y`, `MASK` is legal. -/
def State.inRange (s : State) : Prop :=
  1 ≤ s.cidx.toNat ∧ s.cidx.toNat ≤ 15 ∧ 1 ≤ s.lc.toNat ∧ s.lc.toNat ≤ 63

/-- Column 0 and row 0 were never written (20_memory R45). -/
def State.edgeEmpty (s : State) : Prop := ∀ v : BitVec 6, s.cell 0 v = none ∧ s.cell v 0 = none

/-- The invariant of the machine. -/
structure State.Inv (s : State) : Prop where
  /-- Every register holds a legal value (10_state R33). -/
  inRange : s.inRange
  /-- The grid store keeps its canonical form, and every listed cell lies inside the grid (20_memory R41, R43). -/
  gridWf : Memory.wf s.grid = true
  /-- Column 0 and row 0 hold `none` (20_memory R45). -/
  edgeEmpty : s.edgeEmpty
  /-- Each TICK emitted the records of four writes (44_update_sequencer R164, R166). -/
  fourRecords : ∀ recs ∈ s.trace, ∃ ws : List GridWrite, ws.length = 4 ∧ recs = ws.map recordOf
  /-- A recorded refusal names a command that the host had sent or was about to send (60_exceptions R181). -/
  markIndex : ∀ m, s.refusal = some m → m.index ≤ s.position

/-- The grid that the write records so far make of a new grid, each by its effect (30_encoding R67). -/
def State.replayedGrid (s : State) : Memory := Memory.gridWrites [] (s.trace.flatten.filterMap writeOfRecord)

/-- The launch of a run (R205, R208): a new grid, no refusal recorded, reset applied with the given seeds, and the host's
inputs to come. DESIGN CHOICE (log 13): where `scolor = 0` this first reset is refused and changes no register (R181),
and R205 represents no state before it; the model then shows the registers of `State.reset` (0, 0, 0, 15, 63). A claim
about the registers of a launch takes `1 ≤ scolor` as a premise. -/
def launch (sx sy smask : Byte) (scolor : Nibble) (inputs : List HostInput) : State :=
  { State.reset.applyReset sx sy smask scolor with pending := inputs }

/-- `n` steps of the machine behind the host's interface, stopping where a step stops. -/
def run (n : Nat) (s : State) : Host.Outcome State Fault Refusal := Sys2Proof.core.run n s

/-- `n` steps that keep the last state where a step stops (R208: the run ends, and is observed). -/
def afterSteps : Nat → State → State
  | 0, s => s
  | n + 1, s =>
    match step s with
    | .next t => afterSteps n t
    | .fault _ => s
    | .refused _ => s

/-- The observation of a run (R208): the registers, the grid store, the write records of each TICK in order, and the
refusal mark if any. -/
structure Observation where
  x : Byte
  y : Byte
  mask : Byte
  cidx : Nibble
  lc : Byte
  grid : Memory
  trace : List (List RecordWord)
  refusal : Option RefusalMark
deriving DecidableEq, Repr

/-- What R208 observes of a state. -/
def State.observe (s : State) : Observation where
  x := s.x
  y := s.y
  mask := s.mask
  cidx := s.cidx
  lc := s.lc
  grid := s.grid
  trace := s.trace
  refusal := s.refusal

/-- The run of a launch through all its inputs, observed (R208; its registers where `scolor = 0` are log
13's choice). -/
def observeRun (sx sy smask : Byte) (scolor : Nibble) (inputs : List HostInput) : Observation :=
  (afterSteps inputs.length (launch sx sy smask scolor inputs)).observe

/-- `n` TICK words from the host. -/
def tickInputs (n : Nat) : List HostInput := List.replicate n (.command (encode .tick))

/-- A palette that meets the constraints of 43_palette_color_cycler R141: black at 0 and 8, white at 15, dim entries 1
to 7 and full entries 9 to 14, each with at least one channel lit. -/
structure PaletteMeets (f : Nibble → Colour) : Prop where
  black0 : f 0#4 = black
  black8 : f 8#4 = black
  white15 : f 15#4 = white
  dim : ∀ i : Nibble, 1 ≤ i.toNat → i.toNat ≤ 7 →
    (f i).r ≠ .full ∧ (f i).g ≠ .full ∧ (f i).b ≠ .full ∧ ((f i).r = .half ∨ (f i).g = .half ∨ (f i).b = .half)
  bright : ∀ i : Nibble, 9 ≤ i.toNat → i.toNat ≤ 14 →
    (f i).r ≠ .half ∧ (f i).g ≠ .half ∧ (f i).b ≠ .half ∧ ((f i).r = .full ∨ (f i).g = .full ∨ (f i).b = .full)

end Sys2Proof.Machine
end

