-- ==== Sys2Proof/WellFormed.lean ====
section
/-! DEFINITION. Which commands are well formed: LOAD's operands in the ranges of 30_encoding R65. A command that is not
well formed still has an encoding (R63); executing it is refused (40_commands R85). -/

namespace Sys2Proof

/-- A LOAD's colour is in 1..15 (R65). -/
def Instr.colourInRange : Instr → Bool
  | .nop => true
  | .tick => true
  | .load _ _ _ lcidx _ => decide (1 ≤ lcidx.toNat)

/-- A LOAD's loop counter is at least 1 (R65). -/
def Instr.counterNotZero : Instr → Bool
  | .nop => true
  | .tick => true
  | .load _ _ _ _ llc => decide (1 ≤ llc.toNat)

/-- A LOAD's loop counter is at most 63 (R65). -/
def Instr.counterAtMost63 : Instr → Bool
  | .nop => true
  | .tick => true
  | .load _ _ _ _ llc => decide (llc.toNat ≤ 63)

/-- All three checks. -/
def Instr.wellFormed (i : Instr) : Bool :=
  i.colourInRange && i.counterNotZero && i.counterAtMost63

end Sys2Proof
end

