-- ==== Sys2Proof/Certificates/Slice0/Obligations.lean ====
section
/-! DEFINITION. The statements for the provers. Each docstring names the rule of spec/ it formalises; where a clause
rests on a choice of the model, it names the log entry. -/

open Sys2Proof Sys2Proof.Machine

/-! ### Encoding and decoding (30_encoding) -/

/-- R60, R63: every command, with every operand, is read back from its own word. -/
def Obligations.DecodeOfEncodeIsTheCommand : Prop :=
  ∀ i : Instr, decode (encode i) = .ok i

/-- R60, R64: a word that decodes has one meaning, and that meaning's word is the word itself. -/
def Obligations.EncodeOfDecodedIsTheWord : Prop :=
  ∀ (w : CommandWord) (i : Instr), decode w = .ok i → encode i = w

/-- R61, R63: the decoder by the word's number. The last clause, that a refused word takes a next state which changes
nothing a run observes but the mark (R181), is read as log 6 says (DEDUCED). -/
def Obligations.DecodeReadsEveryField : Prop :=
  ∀ w : CommandWord,
    (w.toNat % 4 = 3 → decode w = .error .reservedOpcode) ∧
    (w.toNat % 4 = 0 → w.toNat / 4 ≠ 0 → decode w = .error .reservedBits) ∧
    (w.toNat % 4 = 1 → w.toNat / 4 ≠ 0 → decode w = .error .reservedBits) ∧
    (w.toNat % 4 = 2 → w.toNat / 4 % 4 ≠ 0 → decode w = .error .reservedBits) ∧
    (w.toNat = 0 → decode w = .ok .nop) ∧
    (w.toNat = 1 → decode w = .ok .tick) ∧
    (w.toNat % 16 = 2 → ∃ (lx ly lmask : Byte) (lcidx : Nibble) (llc : Byte),
      decode w = .ok (.load lx ly lmask lcidx llc) ∧
      lx.toNat = w.toNat / 2 ^ 4 % 256 ∧ ly.toNat = w.toNat / 2 ^ 12 % 256 ∧
      lmask.toNat = w.toNat / 2 ^ 20 % 256 ∧ lcidx.toNat = w.toNat / 2 ^ 28 % 16 ∧
      llc.toNat = w.toNat / 2 ^ 32) ∧
    (∀ (r : RefusalReason) (s : State) (rest : List HostInput),
      decode w = .error r → s.refusal = none → s.pending = .command w :: rest →
      ∃ t, step s = .next t ∧ t.observe = { s.observe with refusal := some ⟨r, s.position⟩ })

/-- R69 and 95_test_vectors 2.1: worked words decode as the spec says. -/
def Obligations.WorkedWordsDecode : Prop :=
  decode 0x0000000000#40 = .ok .nop ∧
  decode 0x0000000001#40 = .ok .tick ∧
  decode 0x01F0000002#40 = .ok (.load 0 0 0 15 1) ∧
  decode 0x3F7FF64C82#40 = .ok (.load 200 100 255 7 63) ∧
  decode 0x8000000001#40 = .error .reservedBits ∧
  decode 0x01F0000006#40 = .error .reservedBits ∧
  decode 0xFFFFFFFFFF#40 = .error .reservedOpcode

/-- opcode_table.json: a word is a row's exactly where its masked bits match. -/
def Obligations.DecodeMatchesTheOpcodeTable : Prop :=
  ∀ w : CommandWord,
    (decode w = .ok .nop ↔ w &&& 0xFFFFFFFFFF#40 = 0x0000000000#40) ∧
    (decode w = .ok .tick ↔ w &&& 0xFFFFFFFFFF#40 = 0x0000000001#40) ∧
    ((∃ lx ly lmask lcidx llc, decode w = .ok (.load lx ly lmask lcidx llc)) ↔
      w &&& 0x000000000F#40 = 0x0000000002#40)

/-- R64: how many of the 2^40 words are commands; all others are refused. -/
def Obligations.CommandWordsAreCounted : Prop :=
  Nat.card { w : CommandWord // decode w = .ok .nop } = 1 ∧
  Nat.card { w : CommandWord // decode w = .ok .tick } = 1 ∧
  Nat.card { w : CommandWord // ∃ lx ly lmask lcidx llc, decode w = .ok (.load lx ly lmask lcidx llc) } = 2 ^ 36 ∧
  Nat.card { w : CommandWord // ∃ lx ly lmask lcidx llc, decode w = .ok (.load lx ly lmask lcidx llc) ∧
    1 ≤ lcidx.toNat ∧ 1 ≤ llc.toNat ∧ llc.toNat ≤ 63 } = 256 * 256 * 256 * 15 * 63 ∧
  (∀ w : CommandWord, w.toNat % 4 = 3 → decode w = .error .reservedOpcode) ∧
  (∀ w : CommandWord, decode w ≠ .ok .nop → decode w ≠ .ok .tick →
    (¬ ∃ lx ly lmask lcidx llc, decode w = .ok (.load lx ly lmask lcidx llc)) → ∃ r, decode w = .error r)

/-- R65: what the assembler makes of NOP, TICK, LOAD and `.word`, and what it refuses. -/
def Obligations.AssembledLinesDecode : Prop :=
  (∀ x y mask color lc : Nat, x < 256 → y < 256 → mask < 256 → color < 16 → lc < 256 →
    ∃ w, assemble (.load x y mask color lc) = some [w] ∧
      ∃ (lx ly lmask : Byte) (lcidx : Nibble) (llc : Byte), decode w = .ok (.load lx ly lmask lcidx llc) ∧
        lx.toNat = x ∧ ly.toNat = y ∧ lmask.toNat = mask ∧ lcidx.toNat = color ∧ llc.toNat = lc) ∧
  (∀ x y mask color lc : Nat, (256 ≤ x ∨ 256 ≤ y ∨ 256 ≤ mask ∨ 16 ≤ color ∨ 256 ≤ lc) →
    assemble (.load x y mask color lc) = none) ∧
  (∃ w, assemble .nop = some [w] ∧ decode w = .ok .nop) ∧
  (∃ w, assemble .tick = some [w] ∧ decode w = .ok .tick) ∧
  (∀ v : CommandWord, assemble (.raw v.toNat) = some [v])

/-- R66: the pseudo-instructions' expansions. -/
def Obligations.PseudoInstructionsExpand : Prop :=
  (∀ n : Nat, ∃ w, decode w = .ok .tick ∧ assemble (.ticks n) = some (List.replicate n w)) ∧
  assemble (.ticks 0) = some [] ∧
  (∀ x y mask color : Nat, assemble (.seed x y mask color) = assemble (.load x y mask color 63)) ∧
  (∀ s : State, ∃ w : CommandWord, assemble (.restore s.snapshot.toNat) = some [w] ∧
    w.toNat = s.snapshot.toNat * 16 + 2 ∧ decode w = .ok (.load s.x s.y s.mask s.cidx s.lc)) ∧
  (∀ v : SnapshotWord, ∃ s : State, s.snapshot = v)

/-- R67: the write record's fields, and which commands emit records. -/
def Obligations.WriteRecordsCarryTheWrites : Prop :=
  (∀ w : GridWrite, (recordOf w).toNat = w.col.toNat + w.row.toNat * 2 ^ 6 + levelValue w.colour.b * 2 ^ 12 +
    levelValue w.colour.g * 2 ^ 14 + levelValue w.colour.r * 2 ^ 16) ∧
  (∀ w : GridWrite, writeOfRecord (recordOf w) = some w) ∧
  (∀ s : State, ∃ (w0 w1 w2 w3 : GridWrite) (t : State), s.tickWrites = [w0, w1, w2, w3] ∧ exec .tick s = .next t ∧
    t.trace = s.trace ++ [[recordOf w0, recordOf w1, recordOf w2, recordOf w3]] ∧
    t.grid = Memory.gridWrites s.grid ([recordOf w0, recordOf w1, recordOf w2, recordOf w3].filterMap writeOfRecord)) ∧
  (∀ s : State, ∃ t, exec .nop s = .next t ∧ t.trace = s.trace) ∧
  (∀ (lx ly lmask : Byte) (lcidx : Nibble) (llc : Byte) (s : State),
    ∃ t, exec (.load lx ly lmask lcidx llc) s = .next t ∧ t.trace = s.trace)

/-- R68: the snapshot word's fields. -/
def Obligations.SnapshotWordHoldsTheRegisters : Prop :=
  ∀ s : State, s.snapshot.toNat =
    s.x.toNat + s.y.toNat * 2 ^ 8 + s.mask.toNat * 2 ^ 16 + s.cidx.toNat * 2 ^ 24 + s.lc.toNat * 2 ^ 28

/-! ### Steps, resets and refusals (40_commands R80; 60_exceptions; 70_reset_and_hazards) -/

/-- R80, R208: a step at a command word that decodes is that command's meaning, then the position moves on (log 1). -/
def Obligations.StepRunsTheDecodedCommand : Prop :=
  ∀ (s : State) (w : CommandWord) (rest : List HostInput) (i : Instr),
    s.refusal = none → s.pending = .command w :: rest → decode w = .ok i →
    (∀ t, exec i s = .next t → step s = .next { t with pending := rest, position := s.position + 1 }) ∧
    (∀ f, exec i s = .fault f → step s = .fault f) ∧
    (∀ r, exec i s = .refused r → step s = .refused r)

/-- The model's `withFetchWord` (log 1): the command placed is the one the next step runs. -/
def Obligations.PlacedCommandRunsNext : Prop :=
  ∀ (s : State) (i : Instr) (t : State), s.refusal = none →
    exec i (s.withFetchWord 40 (encode i).toNat) = .next t →
    step (s.withFetchWord 40 (encode i).toNat) = .next { t with pending := s.pending, position := s.position + 1 }

/-- R63, R181: a refused command word changes no register, no cell and emits no record; the mark takes the reason and the
command's index. That the word counts as taken is the model's (log 1, 6). -/
def Obligations.RefusedWordOnlySetsTheMark : Prop :=
  ∀ (s : State) (w : CommandWord) (rest : List HostInput) (r : RefusalReason),
    s.refusal = none → s.pending = .command w :: rest → decode w = .error r →
    step s = .next { s with
      refusal := some ⟨r, s.position⟩, pending := rest, position := s.position + 1 }

/-- R181 (log 6): a run whose mark is set goes no further, and nothing ever changes or clears the mark. -/
def Obligations.RefusedRunGoesNoFurther : Prop :=
  (∀ (s : State) (m : RefusalMark), s.refusal = some m → step s = .refused (.runAlreadyRefused m.reason m.index)) ∧
  (∀ (s : State) (m : RefusalMark) (n : Nat), s.refusal = some m → afterSteps n s = s) ∧
  (∀ (s t : State) (m : RefusalMark) (i : Instr), s.refusal = some m → exec i s = .next t → t.refusal = some m) ∧
  (∀ (s : State) (m : RefusalMark) (sx sy smask : Byte) (scolor : Nibble), s.refusal = some m →
    (s.applyReset sx sy smask scolor).refusal = some m)

/-- R208: a run ends at its first refusal: its last state is the same for every longer number of steps. -/
def Obligations.RunEndsAtItsFirstRefusal : Prop :=
  ∀ (s : State) (m : RefusalMark) (k n : Nat), (afterSteps k s).refusal = some m → k ≤ n →
    afterSteps n s = afterSteps k s

/-- R208: a run is over when its inputs are used up, or earlier at a refusal: more steps observe the same.
Where `scolor = 0` both sides observe the registers of log 13. -/
def Obligations.RunIsOverWhenItsInputsAre : Prop :=
  ∀ (sx sy smask : Byte) (scolor : Nibble) (inputs : List HostInput) (n : Nat), inputs.length ≤ n →
    (afterSteps n (launch sx sy smask scolor inputs)).observe = observeRun sx sy smask scolor inputs

/-- R200: what reset writes and what it leaves, before the first command and between any two. -/
def Obligations.ResetLoadsTheSeeds : Prop :=
  (∀ (s : State) (sx sy smask : Byte) (scolor : Nibble), 1 ≤ scolor.toNat →
    s.applyReset sx sy smask scolor =
      { s with x := sx, y := sy, mask := smask, cidx := scolor, lc := 63#8 } ∧
    (s.applyReset sx sy smask scolor).snapshot = 63#8 ++ scolor ++ smask ++ sy ++ sx) ∧
  (∀ (s : State) (sx sy smask : Byte) (scolor : Nibble) (rest : List HostInput), 1 ≤ scolor.toNat →
    s.refusal = none → s.pending = .reset sx sy smask scolor :: rest →
    step s = .next { s with
      x := sx, y := sy, mask := smask, cidx := scolor, lc := 63#8, pending := rest }) ∧
  State.reset.refusal = none ∧ State.reset.lc = 63#8

/-- R201: every seed in the stated ranges is loaded, and `scolor = 0` is refused with IllegalSeed. That the refused reset
takes a next state with the mark set is read from R181 as log 6 says (DEDUCED). -/
def Obligations.ResetTakesEverySeedButZeroColour : Prop :=
  ∀ (s : State) (sx sy smask : Byte) (scolor : Nibble) (rest : List HostInput),
    s.refusal = none → s.pending = .reset sx sy smask scolor :: rest →
    (1 ≤ scolor.toNat → ∃ t, step s = .next t ∧ t.x = sx ∧ t.y = sy ∧ t.mask = smask ∧ t.cidx = scolor) ∧
    (scolor.toNat = 0 → ∃ t k, step s = .next t ∧
      t.observe = { s.observe with refusal := some ⟨.illegalSeed, k⟩ })

/-- R203: reset with seeds is LOAD of the seeds with `llc = 63`. -/
def Obligations.ResetEqualsLoadOf63 : Prop :=
  ∀ (s : State) (sx sy smask : Byte) (scolor : Nibble), 1 ≤ scolor.toNat →
    exec (.load sx sy smask scolor 63#8) s = .next (s.applyReset sx sy smask scolor)

/-- R191: with no command, or with a NOP, all state is kept; the host's stream moves on past a NOP (log 1). -/
def Obligations.IdleKeepsTheState : Prop :=
  ∀ s : State, s.refusal = none →
    (s.pending = [] → step s = .next s) ∧
    (∀ rest, s.pending = .command 0x0000000000#40 :: rest →
      step s = .next { s with pending := rest, position := s.position + 1 })

/-- R105, R180, R185: no command raises an exception: each answers a next state from every state and leaves the host's
stream alone, and a step stops only where a refusal is already recorded. For a LOAD that R85 refuses, and for a word that
decode refuses, that next state holds the refusal mark (log 6, DEDUCED); a TICK from `CIDX = 0` rests on log 8 (DESIGN
CHOICE). -/
def Obligations.EveryCommandAnswersANextState : Prop :=
  (∀ (i : Instr) (s : State), ∃ t, exec i s = .next t ∧ t.pending = s.pending ∧ t.position = s.position) ∧
  (∀ s : State, s.refusal = none → ∃ t, step s = .next t)

/-- R86: a command's result depends on the registers and the grid before it alone: where the run stands and what it has
emitted do not matter. (`draws` is the model's own, log 8.) -/
def Obligations.ResultDependsOnRegistersAlone : Prop :=
  ∀ (i : Instr) (s s' : State), s.x = s'.x → s.y = s'.y → s.mask = s'.mask → s.cidx = s'.cidx → s.lc = s'.lc →
    s.grid = s'.grid → s.draws = s'.draws →
    ∃ t t' recs, exec i s = .next t ∧ exec i s' = .next t' ∧
      t.x = t'.x ∧ t.y = t'.y ∧ t.mask = t'.mask ∧ t.cidx = t'.cidx ∧ t.lc = t'.lc ∧ t.grid = t'.grid ∧
      t.trace = s.trace ++ recs ∧ t'.trace = s'.trace ++ recs

/-! ### NOP and LOAD (40_commands) -/

/-- R81: NOP changes nothing; its word is 0, and a nonzero reserved bit is refused at decode. -/
def Obligations.NopChangesNothing : Prop :=
  (∀ s : State, exec .nop s = .next s) ∧
  decode 0x0000000000#40 = .ok .nop ∧
  (∀ w : CommandWord, w.toNat % 4 = 0 → w ≠ 0x0000000000#40 → decode w = .error .reservedBits)

/-- R84, R85: LOAD sets all five registers and nothing else, or is refused. Its words are those with `op = 0b10` and
`rsv = 0`. That a refused LOAD takes a next state with the mark set, and that the step after it is refused, is read from
R181 as log 6 says (DEDUCED). -/
def Obligations.LoadSetsAllRegistersOrIsRefused : Prop :=
  (∀ (s : State) (lx ly lmask : Byte) (lcidx : Nibble) (llc : Byte),
    (1 ≤ lcidx.toNat → 1 ≤ llc.toNat → llc.toNat ≤ 63 →
      exec (.load lx ly lmask lcidx llc) s =
        .next { s with x := lx, y := ly, mask := lmask, cidx := lcidx, lc := llc }) ∧
    (lcidx.toNat = 0 ∨ llc.toNat = 0 ∨ 63 < llc.toNat → s.refusal = none →
      exec (.load lx ly lmask lcidx llc) s =
        .next { s with refusal := some ⟨.illegalLoad, s.position⟩ }) ∧
    (lcidx.toNat = 0 ∨ llc.toNat = 0 ∨ 63 < llc.toNat → ∀ t u : State,
      exec (.load lx ly lmask lcidx llc) s = .next t → u.refusal = t.refusal → ∃ r, step u = .refused r) ∧
    (1 ≤ lcidx.toNat → llc = 63#8 →
      exec (.load lx ly lmask lcidx llc) s = .next (s.applyReset lx ly lmask lcidx)) ∧
    (1 ≤ lcidx.toNat → llc = 1#8 → ∃ t u : State, exec (.load lx ly lmask lcidx llc) s = .next t ∧
      exec .tick t = .next u ∧ u.lc = 63#8 ∧ u.x = t.nextX + 1#8 ∧ u.y = t.nextY + 1#8)) ∧
  (∀ w : CommandWord, w.toNat % 16 = 2 ↔
    ∃ lx ly lmask lcidx llc, decode w = .ok (.load lx ly lmask lcidx llc)) ∧
  decode 0x01F0000002#40 = .ok (.load 0 0 0 15 1)

/-! ### TICK as a whole (40_commands R82, R83) -/

/-- R82, R83, R104, R106, R107, R146, R147, R160, R161, R162: the whole next state of a TICK, from every state whose
`CIDX` is not 0 (a state with `CIDX = 0` is `TickFromColourZero`). -/
def Obligations.TickFollowsThePseudocode : Prop :=
  (∀ (s : State) (d ny d2 nx lc1 : Byte) (gx gy : Nat) (rgb : Colour) (ws : List GridWrite),
    d = (s.x >>> 2) &&& s.mask → ny = s.y + d → d2 = (ny >>> 2) &&& s.mask → nx = s.x - d2 →
    rgb = (if s.lc.toNat % 2 = 0 then pal 0#4 else pal s.cidx) →
    gx = nx.toNat / 8 → gy = ny.toNat / 8 →
    ws = [⟨BitVec.ofNat 6 (gx + 32), BitVec.ofNat 6 (gy + 32), rgb⟩,
      ⟨BitVec.ofNat 6 (32 - gx), BitVec.ofNat 6 (gy + 32), rgb⟩,
      ⟨BitVec.ofNat 6 (32 - gx), BitVec.ofNat 6 (32 - gy), rgb⟩,
      ⟨BitVec.ofNat 6 (gx + 32), BitVec.ofNat 6 (32 - gy), rgb⟩] →
    lc1 = s.lc - 1#8 → s.cidx ≠ 0#4 →
    exec .tick s = .next { s with
      x := if lc1 = 0#8 then nx + 1#8 else nx
      y := if lc1 = 0#8 then ny + 1#8 else ny
      mask := if lc1 = 0#8 ∧ s.cidx = 1#4 then s.mask + 1#8 else s.mask
      cidx := if lc1 = 0#8 then (if s.cidx = 1#4 then 15#4 else s.cidx - 1#4) else s.cidx
      lc := if lc1 = 0#8 then 63#8 else lc1
      grid := Memory.gridWrites s.grid ws
      trace := s.trace ++ [ws.map recordOf] }) ∧
  decode 0x0000000001#40 = .ok .tick ∧
  (∀ w : CommandWord, w.toNat % 4 = 1 → w ≠ 0x0000000001#40 → decode w = .error .reservedBits)

/-- The model's choice where the spec states no result (log 8, 93 I4): a TICK from `CIDX = 0` completes; at a jump the
decremented colour is some value `v`, and the stored `CIDX` and `MASK` follow from it as R146, R147 and R107 say. -/
def Obligations.TickFromColourZero : Prop :=
  ∀ s : State, s.cidx = 0#4 → ∃ (v : Nibble) (n : Nat),
    exec .tick s = .next { s with
      x := if s.lc = 1#8 then s.nextX + 1#8 else s.nextX
      y := if s.lc = 1#8 then s.nextY + 1#8 else s.nextY
      mask := if s.lc = 1#8 ∧ v = 0#4 then s.mask + 1#8 else s.mask
      cidx := if s.lc = 1#8 then (if v = 0#4 then 15#4 else v) else 0#4
      lc := if s.lc = 1#8 then 63#8 else s.lc - 1#8
      grid := Memory.gridWrites s.grid s.tickWrites
      trace := s.trace ++ [s.tickWrites.map recordOf]
      draws := n }

/-- 95_test_vectors L1.1, R168: the source's concrete scenario, whatever the grid and the run so far. -/
def Obligations.SourceScenario : Prop :=
  ∀ s : State, s.x = 0#8 → s.y = 0#8 → s.mask = 0#8 → s.cidx = 15#4 → s.lc = 1#8 →
    ∃ t, exec .tick s = .next t ∧ t.x = 1#8 ∧ t.y = 1#8 ∧ t.mask = 0#8 ∧ t.cidx = 14#4 ∧ t.lc = 63#8 ∧
      s.tickWrites = List.replicate 4 ⟨32#6, 32#6, ⟨.full, .full, .full⟩⟩ ∧
      t.cell 32#6 32#6 = some ⟨.full, .full, .full⟩ ∧
      ∀ col row, ¬ (col = 32#6 ∧ row = 32#6) → t.cell col row = s.cell col row

/-! ### Phase accumulator (41_phase_accumulator) -/

/-- R100 to R104: the position a TICK without a jump leaves, in numbers modulo 256; with the jump bump of R106 (first
and second sentence) where `LC` is 1. `MASK` is not written by the commit. -/
def Obligations.TickMovesThePositionModulo256 : Prop :=
  ∀ (s : State) (d ny d2 nx : Nat), d = (s.x.toNat / 4) &&& s.mask.toNat → ny = (s.y.toNat + d) % 256 →
    d2 = (ny / 4) &&& s.mask.toNat → nx = (s.x.toNat + 256 - d2) % 256 →
    ∃ t, exec .tick s = .next t ∧
      (s.lc.toNat ≠ 1 → t.x.toNat = nx ∧ t.y.toNat = ny ∧ t.mask = s.mask) ∧
      (s.lc.toNat = 1 → t.x.toNat = (nx + 1) % 256 ∧ t.y.toNat = (ny + 1) % 256)

/-- R109: the update before any bump is one function of `(X, Y, MASK)`. -/
def Obligations.PositionUpdateReadsOnlyThePhase : Prop :=
  ∀ s : State, ∃ t, exec .tick s = .next t ∧
    t.x - (if s.lc = 1#8 then 1#8 else 0#8) =
      s.x - (((s.y + ((s.x >>> 2) &&& s.mask)) >>> 2) &&& s.mask) ∧
    t.y - (if s.lc = 1#8 then 1#8 else 0#8) = s.y + ((s.x >>> 2) &&& s.mask)

/-- R100, R102 (corner cases): both masked steps stay below 64, and a small operand or a zero mask gives 0. -/
def Obligations.MaskedStepsStayBelow64 : Prop :=
  ∀ v mask : Byte, (maskedStep v mask).toNat ≤ 63 ∧ (v.toNat < 4 → maskedStep v mask = 0#8) ∧
    (mask = 0#8 → maskedStep v mask = 0#8)

/-- R23, R87: bits [7:6] of `MASK` change nothing a TICK does but the stored `MASK` itself, which still steps by 1. -/
def Obligations.MaskHighBitsOnlyStore : Prop :=
  ∀ (s : State) (m : Byte), m &&& 0x3F#8 = s.mask &&& 0x3F#8 →
    ∃ t, exec .tick s = .next t ∧
      exec .tick { s with mask := m } = .next { t with mask := m + (t.mask - s.mask) }

/-- R87: with `MASK = 0` the position moves only by jump bumps. -/
def Obligations.ZeroMaskFreezesThePosition : Prop :=
  ∀ s : State, s.mask = 0#8 → ∃ t, exec .tick s = .next t ∧
    t.x.toNat = (if s.lc.toNat = 1 then (s.x.toNat + 1) % 256 else s.x.toNat) ∧
    t.y.toNat = (if s.lc.toNat = 1 then (s.y.toNat + 1) % 256 else s.y.toNat)

/-! ### Symmetry mapper (42_symmetry_mapper) -/

/-- R121, R164: each TICK issues W0 to W3, in that order, at the mirrored cells, with one colour; NOP and LOAD issue
none. -/
def Obligations.TickIssuesFourMirroredWrites : Prop :=
  (∀ (s : State) (gx gy : Nat), gx = s.nextX.toNat / 8 → gy = s.nextY.toNat / 8 →
    ∃ (w0 w1 w2 w3 : GridWrite) (t : State), exec .tick s = .next t ∧
      t.trace = s.trace ++ [[recordOf w0, recordOf w1, recordOf w2, recordOf w3]] ∧
      t.grid = Memory.gridWrite (Memory.gridWrite (Memory.gridWrite (Memory.gridWrite s.grid w0) w1) w2) w3 ∧
      w0.col.toNat = gx + 32 ∧ w0.row.toNat = gy + 32 ∧
      w1.col.toNat + gx = 32 ∧ w1.row.toNat = gy + 32 ∧
      w2.col.toNat + gx = 32 ∧ w2.row.toNat + gy = 32 ∧
      w3.col.toNat = gx + 32 ∧ w3.row.toNat + gy = 32 ∧
      w0.colour = s.tickColour ∧ w1.colour = s.tickColour ∧ w2.colour = s.tickColour ∧ w3.colour = s.tickColour) ∧
  (∀ s : State, ∃ t, exec .nop s = .next t ∧ t.trace = s.trace ∧ t.grid = s.grid) ∧
  (∀ (s : State) (lx ly lmask : Byte) (lcidx : Nibble) (llc : Byte),
    ∃ t, exec (.load lx ly lmask lcidx llc) s = .next t ∧ t.trace = s.trace ∧ t.grid = s.grid)

/-- R123: the mapper's coordinates, their 6-bit forms, and that column 0 and row 0 are never produced. -/
def Obligations.MirroredCoordinatesAvoidTheEdge : Prop :=
  (∀ g : BitVec 5, (outward g).toNat = g.toNat + 32 ∧ (inward g).toNat = 32 - g.toNat ∧ outward g = 1#1 ++ g ∧
    32 ≤ (outward g).toNat ∧ (outward g).toNat ≤ 63 ∧ 1 ≤ (inward g).toNat ∧ (inward g).toNat ≤ 32) ∧
  (∀ (s : State) (w : GridWrite), w ∈ s.tickWrites →
    1 ≤ w.col.toNat ∧ w.col.toNat ≤ 63 ∧ 1 ≤ w.row.toNat ∧ w.row.toNat ≤ 63)

/-- R124: which of a TICK's four targets coincide, and that otherwise none do. -/
def Obligations.TargetsCoincideOnlyOnTheAxes : Prop :=
  ∀ (s : State) (gx gy : Nat), gx = s.nextX.toNat / 8 → gy = s.nextY.toNat / 8 →
    ∃ w0 w1 w2 w3, s.tickWrites = [w0, w1, w2, w3] ∧
      (gx = 0 → w0 = w1 ∧ w2 = w3 ∧ w0.col = 32#6 ∧ w2.col = 32#6) ∧
      (gy = 0 → w0 = w3 ∧ w1 = w2 ∧ w0.row = 32#6 ∧ w1.row = 32#6) ∧
      (gx = 0 → gy = 0 → ∀ w ∈ s.tickWrites, w.col = 32#6 ∧ w.row = 32#6) ∧
      (gx ≠ 0 → gy ≠ 0 → (s.tickWrites.map fun w => (w.col, w.row)).Nodup)

/-- R125: a TICK's cells are `(c, r)` and its mirror images by `64 - v`, closed under reflection of the column about 32,
of the row about 32 and of both, in one colour. -/
def Obligations.WritesAreFourFoldSymmetric : Prop :=
  ∀ (s : State) (c r : Nat), c = s.nextX.toNat / 8 + 32 → r = s.nextY.toNat / 8 + 32 →
    (s.tickWrites.map fun w => (w.col.toNat, w.row.toNat)) = [(c, r), (64 - c, r), (64 - c, 64 - r), (c, 64 - r)] ∧
    ∀ w ∈ s.tickWrites,
      (∃ v ∈ s.tickWrites, v.col.toNat = 64 - w.col.toNat ∧ v.row = w.row ∧ v.colour = w.colour) ∧
      (∃ v ∈ s.tickWrites, v.col = w.col ∧ v.row.toNat = 64 - w.row.toNat ∧ v.colour = w.colour) ∧
      (∃ v ∈ s.tickWrites, v.col.toNat = 64 - w.col.toNat ∧ v.row.toNat = 64 - w.row.toNat ∧ v.colour = w.colour) ∧
      w.colour = s.tickColour

/-! ### Palette and colour cycler (43_palette_color_cycler) -/

/-- R141: the block's palette, for every assignment of the parameter, meets the constraints. -/
def Obligations.PaletteMeetsItsConstraints : Prop :=
  (∀ hue : Nibble → Hue, PaletteMeets (paletteOf hue)) ∧ PaletteMeets pal

/-- R5, R141 (log 4): the parameter leaves out no palette that R141 allows. -/
def Obligations.EveryAllowedPaletteIsAParameter : Prop :=
  ∀ f : Nibble → Colour, PaletteMeets f → ∃ hue : Nibble → Hue, paletteOf hue = f

/-- R142 (log 11): the default table of general knowledge, and that it meets R141. -/
def Obligations.DefaultPaletteIsAllowed : Prop :=
  PaletteMeets defaultPalette ∧
  defaultPalette 1#4 = ⟨.half, .off, .off⟩ ∧ defaultPalette 6#4 = ⟨.off, .half, .half⟩ ∧
  defaultPalette 7#4 = ⟨.half, .half, .half⟩ ∧ defaultPalette 12#4 = ⟨.off, .off, .full⟩

/-- R144, R145: a TICK whose `LC` is even draws black, whatever `CIDX` is; else it draws `PAL[CIDX]`, with the `CIDX`
from before the tick. -/
def Obligations.EvenCounterDrawsBlack : Prop :=
  ∀ s : State, ∃ (t : State) (ws : List GridWrite), exec .tick s = .next t ∧ t.trace = s.trace ++ [ws.map recordOf] ∧ ws.length = 4 ∧
    (s.lc.toNat % 2 = 0 → ∀ w ∈ ws, w.colour = ⟨.off, .off, .off⟩) ∧
    (s.lc.toNat % 2 = 1 → ∀ w ∈ ws, w.colour = pal s.cidx)

/-- R143: with `CIDX = 8` every write of a TICK is black. -/
def Obligations.IndexEightDrawsBlack : Prop :=
  ∀ s : State, s.cidx = 8#4 → ∃ (t : State) (ws : List GridWrite), exec .tick s = .next t ∧ t.trace = s.trace ++ [ws.map recordOf] ∧
    ws.length = 4 ∧ ∀ w ∈ ws, w.colour = ⟨.off, .off, .off⟩ ∧ t.cell w.col w.row = some ⟨.off, .off, .off⟩

/-- R107, R146, R147, R160, in numbers: `LC`, `CIDX` and `MASK` after a TICK. The last clause is about `LC = 0`, which
no run reaches (R160, log 10). -/
def Obligations.TickStepsTheCounterAndTheColour : Prop :=
  ∀ s : State, 1 ≤ s.cidx.toNat → ∃ t, exec .tick s = .next t ∧
    (s.lc.toNat = 1 → t.lc.toNat = 63) ∧
    (2 ≤ s.lc.toNat → t.lc.toNat = s.lc.toNat - 1) ∧
    (s.lc.toNat = 0 → t.lc.toNat = 255) ∧
    (s.lc.toNat ≠ 1 → t.cidx = s.cidx ∧ t.mask = s.mask) ∧
    (s.lc.toNat = 1 → 2 ≤ s.cidx.toNat → t.cidx.toNat = s.cidx.toNat - 1 ∧ t.mask = s.mask) ∧
    (s.lc.toNat = 1 → s.cidx.toNat = 1 → t.cidx.toNat = 15 ∧ t.mask.toNat = (s.mask.toNat + 1) % 256)

/-! ### Grid store and its writes (20_memory, 44_update_sequencer) -/

/-- R165: a grid write sets its one cell; a TICK applies W0 to W3 in order; cells outside them are unchanged; and the
order does not matter. -/
def Obligations.TickWritesOnlyItsFourCells : Prop :=
  (∀ (m : Memory) (w : GridWrite) (a : Nat),
    Memory.read (Memory.gridWrite m w) a =
      if a = (gridAddress w.col w.row).toNat then some w.colour else Memory.read m a) ∧
  (∀ s : State, ∃ t, exec .tick s = .next t ∧ t.grid = Memory.gridWrites s.grid s.tickWrites ∧
    (∀ a : Nat, (∀ w ∈ s.tickWrites, a ≠ (gridAddress w.col w.row).toNat) →
      Memory.read t.grid a = Memory.read s.grid a) ∧
    (∀ w ∈ s.tickWrites, t.cell w.col w.row = some s.tickColour) ∧
    (∀ ws : List GridWrite, ws.Perm s.tickWrites → ∀ a : Nat,
      Memory.read (Memory.gridWrites s.grid ws) a = Memory.read t.grid a))

/-- R41, R9: the flat address of a cell is `row * 64 + col`, one address for each cell. -/
def Obligations.GridAddressIsRowTimes64PlusColumn : Prop :=
  (∀ col row : BitVec 6, (gridAddress col row).toNat = row.toNat * 64 + col.toNat) ∧
  (∀ col row col' row' : BitVec 6, gridAddress col row = gridAddress col' row' → col = col' ∧ row = row')

/-- R46, R47: only a TICK's four writes ever change the grid, and any order of them makes the same grid store. -/
def Obligations.OnlyTicksChangeTheGrid : Prop :=
  (∀ s t : State, step s = .next t → t.grid = s.grid ∨
    (∃ rest, s.pending = .command 0x0000000001#40 :: rest) ∧ t.grid = Memory.gridWrites s.grid s.tickWrites) ∧
  (∀ (s t : State) (rest : List HostInput), s.pending = .command 0x0000000001#40 :: rest → step s = .next t →
    t.grid = Memory.gridWrites s.grid s.tickWrites) ∧
  (∀ (s : State) (ws : List GridWrite), Memory.wf s.grid = true → ws.Perm s.tickWrites →
    Memory.gridWrites s.grid ws = Memory.gridWrites s.grid s.tickWrites)

/-- R45: the cells of column 0 and row 0 are never written: no step changes one, and in a run they stay `none`. -/
def Obligations.EdgeCellsAreNeverWritten : Prop :=
  (∀ s t : State, step s = .next t → ∀ v : BitVec 6, t.cell 0#6 v = s.cell 0#6 v ∧ t.cell v 0#6 = s.cell v 0#6) ∧
  (∀ (sx sy smask : Byte) (scolor : Nibble) (inputs : List HostInput) (n : Nat) (v : BitVec 6),
    (afterSteps n (launch sx sy smask scolor inputs)).cell 0#6 v = none ∧
    (afterSteps n (launch sx sy smask scolor inputs)).cell v 0#6 = none)

/-- R167: the grid's contents reach neither the registers nor the writes of any command. -/
def Obligations.NoFeedbackFromTheGrid : Prop :=
  ∀ (i : Instr) (s : State) (g : Memory), ∃ t g',
    exec i s = .next t ∧ exec i { s with grid := g } = .next { t with grid := g' }

/-! ### Runs of many TICKs (R108, R148, R149, R163) -/

/-- R163: from `LC = n` the jump event (`LC = 1` before the tick) fires in the n-th TICK and then every 63 TICKs; after a
reset, in TICK number 63, 126, 189 and so on. -/
def Obligations.JumpFiresEvery63Ticks : Prop :=
  (∀ (s : State) (j : Nat) (rest : List HostInput), s.refusal = none → 1 ≤ s.lc.toNat → s.lc.toNat ≤ 63 →
    s.pending = tickInputs j ++ rest →
    ∃ t : State, run j s = .next t ∧
      (t.lc.toNat = 1 ↔ s.lc.toNat ≤ j + 1 ∧ 63 ∣ (j + 1 - s.lc.toNat))) ∧
  (∀ (sx sy smask : Byte) (scolor : Nibble) (j : Nat), 1 ≤ scolor.toNat →
    ∃ t : State, run j (launch sx sy smask scolor (tickInputs (j + 1))) = .next t ∧
      (t.lc.toNat = 1 ↔ 63 ∣ (j + 1)))

/-- R108: from `LC = 63` and `CIDX = c`, the first increment of `MASK` is at TICK number 63 × c, and from then on one
comes every 945 TICKs. -/
def Obligations.MaskIncrementsEvery945Ticks : Prop :=
  ∀ (s : State) (k : Nat) (rest : List HostInput), s.refusal = none → s.lc.toNat = 63 → 1 ≤ s.cidx.toNat →
    s.pending = tickInputs k ++ rest →
    ∃ t : State, run k s = .next t ∧
      t.mask = s.mask + BitVec.ofNat 8 ((k + 63 * (15 - s.cidx.toNat)) / 945)

/-- R148: the colour index and the drawn colour over a run of TICKs from `LC = 63`: each index is held for 63 TICKs,
downward and round from 1 to 15; in each hold the ticks with an odd `LC` draw it and the others are black. -/
def Obligations.ColourCyclesDownEvery63Ticks : Prop :=
  ∀ (s : State) (k c : Nat) (rest : List HostInput), s.refusal = none → s.lc.toNat = 63 → 1 ≤ s.cidx.toNat →
    s.pending = tickInputs (k + 1) ++ rest → c = 15 - (15 - s.cidx.toNat + k / 63) % 15 →
    ∃ (t u : State) (ws : List GridWrite), run k s = .next t ∧ t.cidx.toNat = c ∧ t.lc.toNat = 63 - k % 63 ∧
      run (k + 1) s = .next u ∧ u.trace = t.trace ++ [ws.map recordOf] ∧ ws.length = 4 ∧
      ∀ w ∈ ws, w.colour = if k % 63 % 2 = 0 then pal (BitVec.ofNat 4 c) else black

/-- R149: drawn and blanked ticks alternate, but for two drawn ticks in a row at each jump, the second with the new
colour index. -/
def Obligations.InterlaceBreaksOnlyAtTheJump : Prop :=
  ∀ s : State, s.inRange → ∃ t, exec .tick s = .next t ∧
    (s.lc.toNat ≠ 1 → t.lc.toNat = s.lc.toNat - 1 ∧ blank t.lc = !blank s.lc) ∧
    (s.lc.toNat = 1 → t.lc.toNat = 63 ∧ blank s.lc = false ∧ blank t.lc = false ∧ t.cidx ≠ s.cidx ∧
      s.tickColour = pal s.cidx ∧ t.tickColour = pal t.cidx)

/-! ### Invariants -/

/-- R33, R41, R45, R164: every step, from every state that meets the invariant, keeps it. -/
def Obligations.EveryStepKeepsTheInvariant : Prop :=
  ∀ s t : State, s.Inv → step s = .next t → t.Inv

/-- R200, R208: the state after reset meets the invariant, and so does every launch with legal seeds. -/
def Obligations.ResetMeetsTheInvariant : Prop :=
  State.reset.Inv ∧
  ∀ (sx sy smask : Byte) (scolor : Nibble) (inputs : List HostInput), 1 ≤ scolor.toNat →
    (launch sx sy smask scolor inputs).Inv

/-- R33: in every state a run reaches, `CIDX` is in [1,15] and `LC` in [1,63], and every 8-bit value is legal for the
others. -/
def Obligations.ReachableRegistersStayInRange : Prop :=
  ∀ (sx sy smask : Byte) (scolor : Nibble) (inputs : List HostInput) (n : Nat) (t : State), 1 ≤ scolor.toNat →
    run n (launch sx sy smask scolor inputs) = .next t →
    t.x.toNat ≤ 255 ∧ t.y.toNat ≤ 255 ∧ t.mask.toNat ≤ 255 ∧
    1 ≤ t.cidx.toNat ∧ t.cidx.toNat ≤ 15 ∧ 1 ≤ t.lc.toNat ∧ t.lc.toNat ≤ 63

/-- R47, R166, R208: every step keeps the grid store equal to what the write records of the run make of a new grid: the
records carry exactly what the grid shows. -/
def Obligations.RecordsAlwaysRebuildTheGrid : Prop :=
  ∀ s t : State, s.replayedGrid = s.grid → step s = .next t → t.replayedGrid = t.grid

/-- R208: a new grid is what no records make, at reset and at every launch. -/
def Obligations.LaunchedGridIsRebuiltFromNoRecords : Prop :=
  State.reset.replayedGrid = State.reset.grid ∧
  ∀ (sx sy smask : Byte) (scolor : Nibble) (inputs : List HostInput),
    (launch sx sy smask scolor inputs).replayedGrid = (launch sx sy smask scolor inputs).grid
end

