-- ==== Sys2Proof/Laws/Memory.lean ====
section
/-! SUPPORT. The grid store: reads after writes, and the canonical form kept by every memory operation. -/

namespace Sys2Proof.Machine

open Sys2Proof

@[simp] theorem Memory.read_nil (a : Nat) : Memory.read [] a = none := rfl

/-- Reading any address after a write: the colour written there, everything else as before. -/
theorem Memory.read_write (m : Memory) (a b : Nat) (v : Colour) :
    Memory.read (Memory.write m a v) b = if b = a then some v else Memory.read m b := by
  induction m with
  | nil => simp [Memory.write, Memory.read]
  | cons e m ih =>
    obtain ⟨c, u⟩ := e
    simp only [Memory.write]
    split
    · simp [Memory.read]
    · split
      · subst_vars; simp only [Memory.read]; split <;> simp_all
      · rename_i hac
        simp only [Memory.read, ih]
        by_cases hbc : b = c
        · subst hbc; simp [Ne.symm hac]
        · simp [hbc]

theorem Memory.risingFrom_mono {m : Memory} {low low' : Nat} (h : low' ≤ low) (hm : Memory.risingFrom low m = true) :
    Memory.risingFrom low' m = true := by
  cases m with
  | nil => rfl
  | cons e m =>
    simp only [Memory.risingFrom, Bool.and_eq_true, decide_eq_true_eq] at hm ⊢
    exact ⟨⟨Nat.le_trans h hm.1.1, hm.1.2⟩, hm.2⟩

/-- A write inside the grid keeps addresses rising. -/
theorem Memory.risingFrom_write {m : Memory} {low a : Nat} (v : Colour) (ha : low ≤ a) (ha' : a < 4096)
    (hm : Memory.risingFrom low m = true) : Memory.risingFrom low (Memory.write m a v) = true := by
  induction m generalizing low with
  | nil => simp [Memory.write, Memory.risingFrom, ha, ha']
  | cons e m ih =>
    obtain ⟨c, u⟩ := e
    simp only [Memory.risingFrom, Bool.and_eq_true, decide_eq_true_eq] at hm
    obtain ⟨⟨hc, hc'⟩, hm⟩ := hm
    simp only [Memory.write]
    split
    · simp only [Memory.risingFrom, Bool.and_eq_true, decide_eq_true_eq]
      exact ⟨⟨ha, ha'⟩, ⟨by omega, hc'⟩, hm⟩
    · split
      · subst_vars
        simp only [Memory.risingFrom, Bool.and_eq_true, decide_eq_true_eq]
        exact ⟨⟨ha, ha'⟩, hm⟩
      · simp only [Memory.risingFrom, Bool.and_eq_true, decide_eq_true_eq]
        exact ⟨⟨hc, hc'⟩, ih (by omega) hm⟩

@[simp] theorem Memory.wf_nil : Memory.wf [] = true := rfl

/-- Every write inside the grid keeps the canonical form. -/
theorem Memory.wf_write {m : Memory} {a : Nat} (v : Colour) (ha : a < 4096) (hm : Memory.wf m = true) :
    Memory.wf (Memory.write m a v) = true :=
  Memory.risingFrom_write v (Nat.zero_le a) ha hm

/-- A cell's address lies inside the grid (20_memory R43). -/
theorem gridAddress_lt (col row : BitVec 6) : (gridAddress col row).toNat < 4096 := (gridAddress col row).isLt

/-- A grid write keeps the canonical form. -/
theorem Memory.wf_gridWrite {m : Memory} (w : GridWrite) (hm : Memory.wf m = true) :
    Memory.wf (Memory.gridWrite m w) = true :=
  Memory.wf_write _ (gridAddress_lt w.col w.row) hm

/-- Any sequence of grid writes keeps the canonical form. -/
theorem Memory.wf_gridWrites {m : Memory} (ws : List GridWrite) (hm : Memory.wf m = true) :
    Memory.wf (Memory.gridWrites m ws) = true := by
  induction ws generalizing m with
  | nil => exact hm
  | cons w ws ih => exact ih (Memory.wf_gridWrite w hm)

/-- Writes in two batches are writes in one. -/
theorem Memory.gridWrites_append (m : Memory) (ws vs : List GridWrite) :
    Memory.gridWrites m (ws ++ vs) = Memory.gridWrites (Memory.gridWrites m ws) vs := by
  induction ws generalizing m with
  | nil => rfl
  | cons w ws ih => exact ih _

/-- Reading after writes that all carry one colour: that colour at a cell they name, else what was there. -/
theorem Memory.read_gridWrites_of_colour {ws : List GridWrite} {c : Colour} (h : ∀ w ∈ ws, w.colour = c) (m : Memory)
    (a : Nat) : Memory.read (Memory.gridWrites m ws) a =
      if ∃ w ∈ ws, a = (gridAddress w.col w.row).toNat then some c else Memory.read m a := by
  induction ws generalizing m with
  | nil => simp [Memory.gridWrites]
  | cons w ws ih =>
    have hw : w.colour = c := h w (by simp)
    simp only [Memory.gridWrites, Memory.gridWrite]
    rw [ih (fun v hv => h v (by simp [hv])), Memory.read_write, hw]
    by_cases h1 : ∃ v ∈ ws, a = (gridAddress v.col v.row).toNat <;>
      by_cases h2 : a = (gridAddress w.col w.row).toNat <;> simp [h1, h2]

theorem Memory.read_of_lt {m : Memory} {low a : Nat} (hm : Memory.risingFrom low m = true) (h : a < low) :
    Memory.read m a = none := by
  induction m generalizing low with
  | nil => rfl
  | cons e m ih =>
    obtain ⟨c, u⟩ := e
    simp only [Memory.risingFrom, Bool.and_eq_true, decide_eq_true_eq] at hm
    obtain ⟨⟨hc, -⟩, hm⟩ := hm
    have : a ≠ c := by omega
    simp only [Memory.read, this, if_false]
    exact ih hm (by omega)

theorem Memory.ext_of_rising {m n : Memory} {low : Nat} (hm : Memory.risingFrom low m = true)
    (hn : Memory.risingFrom low n = true) (h : ∀ a, Memory.read m a = Memory.read n a) : m = n := by
  induction m generalizing n low with
  | nil =>
    cases n with
    | nil => rfl
    | cons e n => exact absurd (h e.1) (by simp [Memory.read])
  | cons e m ih =>
    obtain ⟨c, u⟩ := e
    cases n with
    | nil => exact absurd (h c) (by simp [Memory.read])
    | cons f n =>
      obtain ⟨d, v⟩ := f
      simp only [Memory.risingFrom, Bool.and_eq_true, decide_eq_true_eq] at hm hn
      have hcd : c = d := by
        rcases Nat.lt_trichotomy c d with hlt | heq | hgt
        · have h1 := h c
          have h2 := Memory.read_of_lt hn.2 (show c < d + 1 by omega)
          have : c ≠ d := by omega
          simp [Memory.read, this, h2] at h1
        · exact heq
        · have h1 := h d
          have h2 := Memory.read_of_lt hm.2 (show d < c + 1 by omega)
          have : d ≠ c := by omega
          simp [Memory.read, this, h2] at h1
      subst hcd
      have huv : u = v := by simpa [Memory.read] using h c
      subst huv
      congr 1
      refine ih hm.2 hn.2 fun a => ?_
      by_cases ha : a = c
      · subst ha
        rw [Memory.read_of_lt hm.2 (Nat.lt_succ_self a), Memory.read_of_lt hn.2 (Nat.lt_succ_self a)]
      · simpa [Memory.read, ha] using h a

/-- In canonical form, stores that read alike are the same data. -/
theorem Memory.ext_of_wf {m n : Memory} (hm : Memory.wf m = true) (hn : Memory.wf n = true)
    (h : ∀ a, Memory.read m a = Memory.read n a) : m = n :=
  Memory.ext_of_rising hm hn h

end Sys2Proof.Machine
end

