-- ==== Sys2Proof/Laws/State.lean ====
section
/-! SUPPORT. One lemma per field per update of the state: what each named operation of Machine/Ops.lean writes, and that it
leaves every other field alone. -/

namespace Sys2Proof.Machine

open Sys2Proof

section

variable (s : State)

@[simp] theorem State.issueWrites_x (ws : List GridWrite) : (s.issueWrites ws).x = s.x := rfl
@[simp] theorem State.issueWrites_y (ws : List GridWrite) : (s.issueWrites ws).y = s.y := rfl
@[simp] theorem State.issueWrites_mask (ws : List GridWrite) : (s.issueWrites ws).mask = s.mask := rfl
@[simp] theorem State.issueWrites_cidx (ws : List GridWrite) : (s.issueWrites ws).cidx = s.cidx := rfl
@[simp] theorem State.issueWrites_lc (ws : List GridWrite) : (s.issueWrites ws).lc = s.lc := rfl
@[simp] theorem State.issueWrites_grid (ws : List GridWrite) : (s.issueWrites ws).grid = Memory.gridWrites s.grid ws := rfl
@[simp] theorem State.issueWrites_refusal (ws : List GridWrite) : (s.issueWrites ws).refusal = s.refusal := rfl
@[simp] theorem State.issueWrites_pending (ws : List GridWrite) : (s.issueWrites ws).pending = s.pending := rfl
@[simp] theorem State.issueWrites_position (ws : List GridWrite) : (s.issueWrites ws).position = s.position := rfl
@[simp] theorem State.issueWrites_trace (ws : List GridWrite) : (s.issueWrites ws).trace = s.trace ++ [ws.map recordOf] := rfl
@[simp] theorem State.issueWrites_draws (ws : List GridWrite) : (s.issueWrites ws).draws = s.draws := rfl

@[simp] theorem State.commitPosition_x (nx ny : Byte) : (s.commitPosition nx ny).x = nx := rfl
@[simp] theorem State.commitPosition_y (nx ny : Byte) : (s.commitPosition nx ny).y = ny := rfl
@[simp] theorem State.commitPosition_mask (nx ny : Byte) : (s.commitPosition nx ny).mask = s.mask := rfl
@[simp] theorem State.commitPosition_cidx (nx ny : Byte) : (s.commitPosition nx ny).cidx = s.cidx := rfl
@[simp] theorem State.commitPosition_lc (nx ny : Byte) : (s.commitPosition nx ny).lc = s.lc := rfl
@[simp] theorem State.commitPosition_grid (nx ny : Byte) : (s.commitPosition nx ny).grid = s.grid := rfl
@[simp] theorem State.commitPosition_refusal (nx ny : Byte) : (s.commitPosition nx ny).refusal = s.refusal := rfl
@[simp] theorem State.commitPosition_pending (nx ny : Byte) : (s.commitPosition nx ny).pending = s.pending := rfl
@[simp] theorem State.commitPosition_position (nx ny : Byte) : (s.commitPosition nx ny).position = s.position := rfl
@[simp] theorem State.commitPosition_trace (nx ny : Byte) : (s.commitPosition nx ny).trace = s.trace := rfl
@[simp] theorem State.commitPosition_draws (nx ny : Byte) : (s.commitPosition nx ny).draws = s.draws := rfl

@[simp] theorem State.bumpPosition_x : (s.bumpPosition).x = s.x + 1 := rfl
@[simp] theorem State.bumpPosition_y : (s.bumpPosition).y = s.y + 1 := rfl
@[simp] theorem State.bumpPosition_mask : (s.bumpPosition).mask = s.mask := rfl
@[simp] theorem State.bumpPosition_cidx : (s.bumpPosition).cidx = s.cidx := rfl
@[simp] theorem State.bumpPosition_lc : (s.bumpPosition).lc = s.lc := rfl
@[simp] theorem State.bumpPosition_grid : (s.bumpPosition).grid = s.grid := rfl
@[simp] theorem State.bumpPosition_refusal : (s.bumpPosition).refusal = s.refusal := rfl
@[simp] theorem State.bumpPosition_pending : (s.bumpPosition).pending = s.pending := rfl
@[simp] theorem State.bumpPosition_position : (s.bumpPosition).position = s.position := rfl
@[simp] theorem State.bumpPosition_trace : (s.bumpPosition).trace = s.trace := rfl
@[simp] theorem State.bumpPosition_draws : (s.bumpPosition).draws = s.draws := rfl

@[simp] theorem State.bumpMask_x : (s.bumpMask).x = s.x := rfl
@[simp] theorem State.bumpMask_y : (s.bumpMask).y = s.y := rfl
@[simp] theorem State.bumpMask_mask : (s.bumpMask).mask = s.mask + 1 := rfl
@[simp] theorem State.bumpMask_cidx : (s.bumpMask).cidx = s.cidx := rfl
@[simp] theorem State.bumpMask_lc : (s.bumpMask).lc = s.lc := rfl
@[simp] theorem State.bumpMask_grid : (s.bumpMask).grid = s.grid := rfl
@[simp] theorem State.bumpMask_refusal : (s.bumpMask).refusal = s.refusal := rfl
@[simp] theorem State.bumpMask_pending : (s.bumpMask).pending = s.pending := rfl
@[simp] theorem State.bumpMask_position : (s.bumpMask).position = s.position := rfl
@[simp] theorem State.bumpMask_trace : (s.bumpMask).trace = s.trace := rfl
@[simp] theorem State.bumpMask_draws : (s.bumpMask).draws = s.draws := rfl

@[simp] theorem State.setColour_x (c : Nibble) : (s.setColour c).x = s.x := rfl
@[simp] theorem State.setColour_y (c : Nibble) : (s.setColour c).y = s.y := rfl
@[simp] theorem State.setColour_mask (c : Nibble) : (s.setColour c).mask = s.mask := rfl
@[simp] theorem State.setColour_cidx (c : Nibble) : (s.setColour c).cidx = c := rfl
@[simp] theorem State.setColour_lc (c : Nibble) : (s.setColour c).lc = s.lc := rfl
@[simp] theorem State.setColour_grid (c : Nibble) : (s.setColour c).grid = s.grid := rfl
@[simp] theorem State.setColour_refusal (c : Nibble) : (s.setColour c).refusal = s.refusal := rfl
@[simp] theorem State.setColour_pending (c : Nibble) : (s.setColour c).pending = s.pending := rfl
@[simp] theorem State.setColour_position (c : Nibble) : (s.setColour c).position = s.position := rfl
@[simp] theorem State.setColour_trace (c : Nibble) : (s.setColour c).trace = s.trace := rfl
@[simp] theorem State.setColour_draws (c : Nibble) : (s.setColour c).draws = s.draws := rfl

@[simp] theorem State.setCounter_x (n : Byte) : (s.setCounter n).x = s.x := rfl
@[simp] theorem State.setCounter_y (n : Byte) : (s.setCounter n).y = s.y := rfl
@[simp] theorem State.setCounter_mask (n : Byte) : (s.setCounter n).mask = s.mask := rfl
@[simp] theorem State.setCounter_cidx (n : Byte) : (s.setCounter n).cidx = s.cidx := rfl
@[simp] theorem State.setCounter_lc (n : Byte) : (s.setCounter n).lc = n := rfl
@[simp] theorem State.setCounter_grid (n : Byte) : (s.setCounter n).grid = s.grid := rfl
@[simp] theorem State.setCounter_refusal (n : Byte) : (s.setCounter n).refusal = s.refusal := rfl
@[simp] theorem State.setCounter_pending (n : Byte) : (s.setCounter n).pending = s.pending := rfl
@[simp] theorem State.setCounter_position (n : Byte) : (s.setCounter n).position = s.position := rfl
@[simp] theorem State.setCounter_trace (n : Byte) : (s.setCounter n).trace = s.trace := rfl
@[simp] theorem State.setCounter_draws (n : Byte) : (s.setCounter n).draws = s.draws := rfl

@[simp] theorem State.countDraw_x : (s.countDraw).x = s.x := rfl
@[simp] theorem State.countDraw_y : (s.countDraw).y = s.y := rfl
@[simp] theorem State.countDraw_mask : (s.countDraw).mask = s.mask := rfl
@[simp] theorem State.countDraw_cidx : (s.countDraw).cidx = s.cidx := rfl
@[simp] theorem State.countDraw_lc : (s.countDraw).lc = s.lc := rfl
@[simp] theorem State.countDraw_grid : (s.countDraw).grid = s.grid := rfl
@[simp] theorem State.countDraw_refusal : (s.countDraw).refusal = s.refusal := rfl
@[simp] theorem State.countDraw_pending : (s.countDraw).pending = s.pending := rfl
@[simp] theorem State.countDraw_position : (s.countDraw).position = s.position := rfl
@[simp] theorem State.countDraw_trace : (s.countDraw).trace = s.trace := rfl
@[simp] theorem State.countDraw_draws : (s.countDraw).draws = s.draws + 1 := rfl

@[simp] theorem State.loadRegisters_x (x y mask : Byte) (cidx : Nibble) (lc : Byte) : (s.loadRegisters x y mask cidx lc).x = x := rfl
@[simp] theorem State.loadRegisters_y (x y mask : Byte) (cidx : Nibble) (lc : Byte) : (s.loadRegisters x y mask cidx lc).y = y := rfl
@[simp] theorem State.loadRegisters_mask (x y mask : Byte) (cidx : Nibble) (lc : Byte) : (s.loadRegisters x y mask cidx lc).mask = mask := rfl
@[simp] theorem State.loadRegisters_cidx (x y mask : Byte) (cidx : Nibble) (lc : Byte) : (s.loadRegisters x y mask cidx lc).cidx = cidx := rfl
@[simp] theorem State.loadRegisters_lc (x y mask : Byte) (cidx : Nibble) (lc : Byte) : (s.loadRegisters x y mask cidx lc).lc = lc := rfl
@[simp] theorem State.loadRegisters_grid (x y mask : Byte) (cidx : Nibble) (lc : Byte) : (s.loadRegisters x y mask cidx lc).grid = s.grid := rfl
@[simp] theorem State.loadRegisters_refusal (x y mask : Byte) (cidx : Nibble) (lc : Byte) : (s.loadRegisters x y mask cidx lc).refusal = s.refusal := rfl
@[simp] theorem State.loadRegisters_pending (x y mask : Byte) (cidx : Nibble) (lc : Byte) : (s.loadRegisters x y mask cidx lc).pending = s.pending := rfl
@[simp] theorem State.loadRegisters_position (x y mask : Byte) (cidx : Nibble) (lc : Byte) : (s.loadRegisters x y mask cidx lc).position = s.position := rfl
@[simp] theorem State.loadRegisters_trace (x y mask : Byte) (cidx : Nibble) (lc : Byte) : (s.loadRegisters x y mask cidx lc).trace = s.trace := rfl
@[simp] theorem State.loadRegisters_draws (x y mask : Byte) (cidx : Nibble) (lc : Byte) : (s.loadRegisters x y mask cidx lc).draws = s.draws := rfl

@[simp] theorem State.refuse_x (r : RefusalReason) : (s.refuse r).x = s.x := rfl
@[simp] theorem State.refuse_y (r : RefusalReason) : (s.refuse r).y = s.y := rfl
@[simp] theorem State.refuse_mask (r : RefusalReason) : (s.refuse r).mask = s.mask := rfl
@[simp] theorem State.refuse_cidx (r : RefusalReason) : (s.refuse r).cidx = s.cidx := rfl
@[simp] theorem State.refuse_lc (r : RefusalReason) : (s.refuse r).lc = s.lc := rfl
@[simp] theorem State.refuse_grid (r : RefusalReason) : (s.refuse r).grid = s.grid := rfl
@[simp] theorem State.refuse_refusal (r : RefusalReason) : (s.refuse r).refusal = some (s.refusal.getD ⟨r, s.position⟩) := rfl
@[simp] theorem State.refuse_pending (r : RefusalReason) : (s.refuse r).pending = s.pending := rfl
@[simp] theorem State.refuse_position (r : RefusalReason) : (s.refuse r).position = s.position := rfl
@[simp] theorem State.refuse_trace (r : RefusalReason) : (s.refuse r).trace = s.trace := rfl
@[simp] theorem State.refuse_draws (r : RefusalReason) : (s.refuse r).draws = s.draws := rfl

@[simp] theorem State.takeCommand_x : (s.takeCommand).x = s.x := rfl
@[simp] theorem State.takeCommand_y : (s.takeCommand).y = s.y := rfl
@[simp] theorem State.takeCommand_mask : (s.takeCommand).mask = s.mask := rfl
@[simp] theorem State.takeCommand_cidx : (s.takeCommand).cidx = s.cidx := rfl
@[simp] theorem State.takeCommand_lc : (s.takeCommand).lc = s.lc := rfl
@[simp] theorem State.takeCommand_grid : (s.takeCommand).grid = s.grid := rfl
@[simp] theorem State.takeCommand_refusal : (s.takeCommand).refusal = s.refusal := rfl
@[simp] theorem State.takeCommand_pending : (s.takeCommand).pending = s.pending.tail := rfl
@[simp] theorem State.takeCommand_position : (s.takeCommand).position = s.position + 1 := rfl
@[simp] theorem State.takeCommand_trace : (s.takeCommand).trace = s.trace := rfl
@[simp] theorem State.takeCommand_draws : (s.takeCommand).draws = s.draws := rfl

@[simp] theorem State.takeReset_x : (s.takeReset).x = s.x := rfl
@[simp] theorem State.takeReset_y : (s.takeReset).y = s.y := rfl
@[simp] theorem State.takeReset_mask : (s.takeReset).mask = s.mask := rfl
@[simp] theorem State.takeReset_cidx : (s.takeReset).cidx = s.cidx := rfl
@[simp] theorem State.takeReset_lc : (s.takeReset).lc = s.lc := rfl
@[simp] theorem State.takeReset_grid : (s.takeReset).grid = s.grid := rfl
@[simp] theorem State.takeReset_refusal : (s.takeReset).refusal = s.refusal := rfl
@[simp] theorem State.takeReset_pending : (s.takeReset).pending = s.pending.tail := rfl
@[simp] theorem State.takeReset_position : (s.takeReset).position = s.position := rfl
@[simp] theorem State.takeReset_trace : (s.takeReset).trace = s.trace := rfl
@[simp] theorem State.takeReset_draws : (s.takeReset).draws = s.draws := rfl

end

end Sys2Proof.Machine
end

