-- ==== Sys2Proof/Laws/Ops.lean ====
section
/-! SUPPORT. What each shared operation can do, said once. -/

namespace Sys2Proof.Machine

open Sys2Proof

/-! ### Operand checks and conditions, in numbers -/

theorem loadLegal_iff (lcidx : Nibble) (llc : Byte) :
    loadLegal lcidx llc = true ↔ 1 ≤ lcidx.toNat ∧ 1 ≤ llc.toNat ∧ llc.toNat ≤ 63 := by
  have h1 : lcidx = 0 ↔ lcidx.toNat = 0 := by rw [← BitVec.toNat_inj]; rfl
  have h2 : llc = 0 ↔ llc.toNat = 0 := by rw [← BitVec.toNat_inj]; rfl
  simp only [loadLegal, Bool.not_eq_true', Bool.or_eq_false_iff, beq_eq_false_iff_ne, decide_eq_false_iff_not, ne_eq,
    h1, h2]
  omega

theorem seedLegal_iff (scolor : Nibble) : seedLegal scolor = true ↔ 1 ≤ scolor.toNat := by
  have h1 : scolor = 0 ↔ scolor.toNat = 0 := by rw [← BitVec.toNat_inj]; rfl
  simp only [seedLegal, Bool.not_eq_true', beq_eq_false_iff_ne, ne_eq, h1]
  omega

theorem blank_eq (lc : Byte) : blank lc = decide (lc.toNat % 2 = 0) := by
  revert lc; decide

theorem jump_sub_one (lc : Byte) : jump (lc - 1#8) = decide (lc = 1#8) := by
  revert lc; decide

/-! ### The grid's addresses -/

theorem gridAddress_toNat (col row : BitVec 6) : (gridAddress col row).toNat = row.toNat * 64 + col.toNat := by
  simp only [gridAddress, BitVec.toNat_append]
  rw [← Nat.shiftLeft_add_eq_or_of_lt col.isLt, Nat.shiftLeft_eq]

/-! ### The mapper -/

theorem outward_toNat (g : BitVec 5) : (outward g).toNat = g.toNat + 32 := by
  revert g; decide

theorem inward_toNat (g : BitVec 5) : (inward g).toNat = 32 - g.toNat := by
  revert g; decide

theorem rescale_toNat (v : Byte) : (rescale v).toNat = v.toNat / 8 := by
  revert v; decide

/-- All of a TICK's writes carry its one colour. -/
theorem State.tickWrites_colour (s : State) : ∀ w ∈ s.tickWrites, w.colour = s.tickColour := by
  simp [State.tickWrites, mirrored]

/-! ### Refusal and reset -/

/-- A refusal records the first reason and index, and keeps a mark that is set. -/
theorem State.refuse_of_none {s : State} (r : RefusalReason) (h : s.refusal = none) :
    s.refuse r = { s with refusal := some ⟨r, s.position⟩ } := by
  simp [State.refuse, h]

theorem State.refuse_of_some {s : State} {m : RefusalMark} (r : RefusalReason) (h : s.refusal = some m) :
    s.refuse r = s := by
  cases s; simp_all [State.refuse]

/-- Reset loads the seeds or refuses them; nothing else. -/
theorem State.applyReset_cases (s : State) (sx sy smask : Byte) (scolor : Nibble) :
    (1 ≤ scolor.toNat ∧ s.applyReset sx sy smask scolor = s.loadRegisters sx sy smask scolor 63#8) ∨
    (scolor.toNat = 0 ∧ s.applyReset sx sy smask scolor = s.refuse .illegalSeed) := by
  unfold State.applyReset
  split
  · exact .inl ⟨(seedLegal_iff _).1 ‹_›, rfl⟩
  · rename_i h
    rw [seedLegal_iff] at h
    exact .inr ⟨by omega, rfl⟩

/-! ### The colour step and the count down -/

/-- The colour step from a legal `CIDX`: a decrement, or the wrap to 15 with the mask increment. -/
theorem State.stepColour_of_ne_zero {s : State} (h : s.cidx ≠ 0#4) :
    s.stepColour = if s.cidx = 1#4 then (s.setColour 15#4).bumpMask else s.setColour (s.cidx - 1#4) := by
  have key : ∀ c : Nibble, c ≠ 0#4 → colourWrap (c - 1#4) = decide (c = 1#4) := by decide
  simp [State.stepColour, decrementColour, h, key s.cidx h]

/-- The colour step from `CIDX = 0`: some open value `v` is taken for the decremented colour. -/
theorem State.stepColour_of_zero {s : State} (h : s.cidx = 0#4) :
    ∃ v : Nibble, s.stepColour =
      if v = 0#4 then ((s.countDraw).setColour 15#4).bumpMask else (s.countDraw).setColour v :=
  ⟨Config.colourBelowZero s.draws, by simp [State.stepColour, decrementColour, h, colourWrap]⟩

/-- The count down: a decrement, or the jump event where `LC` is 1. -/
theorem State.countDown_eq (s : State) :
    s.countDown = if s.lc = 1#8 then ((s.setCounter 63#8).bumpPosition).stepColour else s.setCounter (s.lc - 1#8) := by
  simp [State.countDown, jump_sub_one]

/-- What the colour step can change: `CIDX`, `MASK` and the model's own `draws`. -/
theorem State.stepColour_frame (s : State) :
    ∃ (c : Nibble) (m : Byte) (n : Nat), c ≠ 0#4 ∧ s.stepColour = { s with cidx := c, mask := m, draws := n } := by
  have key : ∀ c : Nibble, c ≠ 0#4 → c ≠ 1#4 → c - 1#4 ≠ 0#4 := by decide
  by_cases h : s.cidx = 0#4
  · obtain ⟨v, hv⟩ := State.stepColour_of_zero h
    rw [hv]
    split
    · exact ⟨15#4, s.mask + 1, s.draws + 1, by decide, rfl⟩
    · exact ⟨v, s.mask, s.draws + 1, ‹_›, rfl⟩
  · rw [State.stepColour_of_ne_zero h]
    split
    · exact ⟨15#4, s.mask + 1, s.draws, by decide, rfl⟩
    · exact ⟨s.cidx - 1#4, s.mask, s.draws, key _ h ‹_›, rfl⟩

/-- What the count down can change: the five registers and the model's own `draws`. -/
theorem State.countDown_frame (s : State) :
    ∃ (x y m : Byte) (c : Nibble) (l : Byte) (n : Nat),
      s.countDown = { s with x := x, y := y, mask := m, cidx := c, lc := l, draws := n } := by
  rw [State.countDown_eq]
  split
  · obtain ⟨c, m, n, -, h⟩ := State.stepColour_frame (s.setCounter 63#8).bumpPosition
    exact ⟨_, _, m, c, _, n, h⟩
  · exact ⟨_, _, _, _, _, _, rfl⟩

end Sys2Proof.Machine
end

