-- ==== Sys2Proof/Laws/PerInstr.lean ====
section
/-! SUPPORT. A fact about every command as syntax, one lemma per constructor: its word's `op` is a command selector and,
for LOAD, its `rsv` is 0 (30_encoding R60, R61). -/

namespace Sys2Proof.Laws.EncodedOpcode

open Sys2Proof

/-- The command selector R61 gives a command. -/
def selector : Instr → BitVec 2
  | .nop => 0b00#2
  | .tick => 0b01#2
  | .load _ _ _ _ _ => 0b10#2

/-- A command's word carries its selector in `op` and 0 in `rsv`. -/
def Statement (i : Instr) : Prop :=
  opField (encode i) = selector i ∧ rsvField (encode i) = 0#2

theorem nop : Statement .nop := by
  unfold Statement; decide

theorem tick : Statement .tick := by
  unfold Statement; decide

theorem load (lx ly lmask : Byte) (lcidx : Nibble) (llc : Byte) : Statement (.load lx ly lmask lcidx llc) := by
  constructor <;> simp only [opField, rsvField, encode, selector] <;> ext i hi <;>
    simp only [BitVec.getElem_extractLsb', BitVec.getLsbD_append] <;> interval_cases i <;> simp

end Sys2Proof.Laws.EncodedOpcode
end

