-- ==== Sys2Proof/Laws/Step.lean ====
section
/-! SUPPORT. What a command and a step can do, said once. -/

namespace Sys2Proof.Machine

open Sys2Proof

/-- What a TICK leaves: the writes issued, the position committed, the counter stepped. -/
def State.afterTick (s : State) : State :=
  ((s.issueWrites s.tickWrites).commitPosition s.nextX s.nextY).countDown

theorem exec_nop (s : State) : exec .nop s = .next s := rfl

theorem exec_tick (s : State) : exec .tick s = .next s.afterTick := rfl

/-- LOAD writes the registers, or is refused. -/
theorem exec_load_cases (lx ly lmask : Byte) (lcidx : Nibble) (llc : Byte) (s : State) :
    ((1 ≤ lcidx.toNat ∧ 1 ≤ llc.toNat ∧ llc.toNat ≤ 63) ∧
      exec (.load lx ly lmask lcidx llc) s = .next (s.loadRegisters lx ly lmask lcidx llc)) ∨
    ((lcidx.toNat = 0 ∨ llc.toNat = 0 ∨ 63 < llc.toNat) ∧
      exec (.load lx ly lmask lcidx llc) s = .next (s.refuse .illegalLoad)) := by
  have hl := loadLegal_iff lcidx llc
  simp only [exec, execLoad]
  split
  · exact .inl ⟨hl.1 ‹_›, rfl⟩
  · exact .inr ⟨by rename_i h; rw [hl] at h; omega, rfl⟩

/-- What a TICK leaves alone, and what it adds to the grid and the trace. -/
theorem State.afterTick_frame (s : State) :
    ∃ (x y m : Byte) (c : Nibble) (l : Byte) (n : Nat),
      s.afterTick = { s with
        x := x, y := y, mask := m, cidx := c, lc := l, draws := n
        grid := Memory.gridWrites s.grid s.tickWrites, trace := s.trace ++ [s.tickWrites.map recordOf] } := by
  obtain ⟨x, y, m, c, l, n, h⟩ :=
    State.countDown_frame ((s.issueWrites s.tickWrites).commitPosition s.nextX s.nextY)
  exact ⟨x, y, m, c, l, n, h⟩

/-- A command word's run: its meaning, or a refusal recorded. -/
theorem runWord_cases (w : CommandWord) (s : State) :
    (∃ i, decode w = .ok i ∧ runWord w s = exec i s) ∨
    (∃ r, decode w = .error r ∧ runWord w s = .next (s.refuse r)) := by
  unfold runWord
  cases h : decode w with
  | ok i => exact .inl ⟨i, rfl, rfl⟩
  | error r => exact .inr ⟨r, rfl, rfl⟩

/-- Everything a step that goes on can be: idle, a reset taken, or a command word taken. -/
theorem step_next_cases {s t : State} (h : step s = .next t) :
    s.refusal = none ∧
      ((s.pending = [] ∧ t = s) ∨
       (∃ sx sy smask scolor rest, s.pending = .reset sx sy smask scolor :: rest ∧
          t = (s.applyReset sx sy smask scolor).takeReset) ∨
       (∃ w rest u, s.pending = .command w :: rest ∧ runWord w s = .next u ∧ t = u.takeCommand)) := by
  unfold step at h
  cases hm : s.refusal with
  | some m => simp [hm] at h
  | none =>
    refine ⟨rfl, ?_⟩
    simp only [hm] at h
    cases hp : s.pending with
    | nil => simp only [hp, Host.Outcome.next.injEq] at h; exact .inl ⟨rfl, h.symm⟩
    | cons i rest =>
      simp only [hp] at h
      cases i with
      | reset sx sy smask scolor =>
        simp only [runInput, Host.Outcome.next.injEq] at h
        exact .inr (.inl ⟨sx, sy, smask, scolor, rest, rfl, h.symm⟩)
      | command w =>
        simp only [runInput] at h
        cases hu : runWord w s with
        | next u =>
          simp only [hu, mapNext, Host.Outcome.next.injEq] at h
          exact .inr (.inr ⟨w, rest, u, rfl, hu, h.symm⟩)
        | fault r => simp [hu, mapNext] at h
        | refused r => simp [hu, mapNext] at h

/-- A step at a command word. -/
theorem step_command {s : State} {w : CommandWord} {rest : List HostInput} (hm : s.refusal = none)
    (hp : s.pending = .command w :: rest) : step s = mapNext State.takeCommand (runWord w s) := by
  simp [step, hm, hp, runInput]

/-- A step at a reset. -/
theorem step_reset {s : State} {sx sy smask : Byte} {scolor : Nibble} {rest : List HostInput} (hm : s.refusal = none)
    (hp : s.pending = .reset sx sy smask scolor :: rest) :
    step s = .next (s.applyReset sx sy smask scolor).takeReset := by
  simp [step, hm, hp, runInput]

theorem step_idle {s : State} (hm : s.refusal = none) (hp : s.pending = []) : step s = .next s := by
  simp [step, hm, hp]

theorem step_of_mark {s : State} {m : RefusalMark} (hm : s.refusal = some m) :
    step s = .refused (.runAlreadyRefused m.reason m.index) := by
  simp [step, hm]

/-! ### Runs -/

@[simp] theorem run_zero (s : State) : run 0 s = .next s := rfl

theorem run_of_next {s t : State} (n : Nat) (h : step s = .next t) : run (n + 1) s = run n t := by
  have e : run (n + 1) s = match step s with
    | .next u => run n u
    | .fault r => .fault r
    | .refused r => .refused r := by
    simp only [run, Host.Core.run, core]; cases step s <;> rfl
  rw [e, h]

theorem run_of_refused {s : State} {r : Refusal} (n : Nat) (h : step s = .refused r) : run (n + 1) s = .refused r := by
  simp only [run, Host.Core.run, core, h]

/-- A run in two parts. -/
theorem run_add {m : Nat} {s t : State} (n : Nat) (h : run m s = .next t) : run (m + n) s = run n t := by
  induction m generalizing s with
  | zero => cases h; rw [Nat.zero_add]
  | succ m ih =>
    rw [Nat.add_right_comm]
    cases hs : step s with
    | next u => rw [run_of_next _ hs] at h ⊢; exact ih h
    | fault r => cases r
    | refused r => rw [run_of_refused _ hs] at h; cases h

/-- What every step keeps, every run keeps. -/
theorem run_keeps {P : State → Prop} (hP : ∀ s t, P s → step s = .next t → P t) {n : Nat} {s t : State} (hs : P s)
    (h : run n s = .next t) : P t := by
  induction n generalizing s with
  | zero => cases h; exact hs
  | succ n ih =>
    cases h' : step s with
    | next u => rw [run_of_next _ h'] at h; exact ih (hP s u hs h') h
    | fault r => cases r
    | refused r => rw [run_of_refused _ h'] at h; cases h

end Sys2Proof.Machine
end

