-- ==== Sys2Proof/Tests/Slice0.lean ====
section
/-! SUPPORT. Small tests, each expected result taken from the spec's own words, examples or vectors, and one witness for
each statement that has hypotheses. -/

namespace Sys2Proof.Tests

open Sys2Proof Sys2Proof.Machine

/-! ### Helpers -/

/-- A state with the given registers and host inputs, everything else as after reset. -/
def stateAt (x y mask : Byte) (cidx : Nibble) (lc : Byte) (inputs : List HostInput) : State :=
  { State.reset with x := x, y := y, mask := mask, cidx := cidx, lc := lc, pending := inputs }

/-- A state with a refusal recorded. -/
def refusedState : State := { State.reset with refusal := some ⟨.reservedBits, 0⟩ }

/-- The next state, if the outcome is one. -/
def nextOf (o : Host.Outcome State Fault Refusal) : Option State :=
  match o with
  | .next t => some t
  | .fault _ => none
  | .refused _ => none

/-- The five registers of the next state, in the order of 95_test_vectors. -/
def registersOf (o : Host.Outcome State Fault Refusal) : Option (Byte × Byte × Byte × Nibble × Byte) :=
  (nextOf o).map fun t => (t.x, t.y, t.mask, t.cidx, t.lc)

/-- The last TICK's records of the next state. -/
def recordsOf (o : Host.Outcome State Fault Refusal) : Option (List RecordWord) :=
  (nextOf o).bind fun t => t.trace.getLast?

/-- A decoded command, or none where the word is refused. -/
def decoded (w : CommandWord) : Option Instr :=
  match decode w with
  | .ok i => some i
  | .error _ => none

/-- The reason a word is refused at decode. -/
def refusedFor (w : CommandWord) : Option RefusalReason :=
  match decode w with
  | .ok _ => none
  | .error r => some r

/-! ### Well-formedness: a term that each check refuses, and one they all pass -/

theorem test_colourInRange_refuses_zero : (Instr.load 0 0 0 0 1).colourInRange = false := by decide

theorem test_counterNotZero_refuses_zero : (Instr.load 0 0 0 1 0).counterNotZero = false := by decide

theorem test_counterAtMost63_refuses_64 : (Instr.load 0 0 0 1 64).counterAtMost63 = false := by decide

theorem test_wellFormed_takes_the_ends : (Instr.load 255 255 255 15 63).wellFormed = true ∧
    (Instr.load 0 0 0 1 1).wellFormed = true ∧ Instr.nop.wellFormed = true ∧ Instr.tick.wellFormed = true := by
  decide

/-! ### Decoding: words written out from R60's patterns (R69, 95_test_vectors 2.1) -/

theorem test_decode_nop : decoded 0b0000000000000000000000000000000000000000#40 = some .nop := by decide

theorem test_decode_tick : decoded 0b0000000000000000000000000000000000000001#40 = some .tick := by decide

/-- `LLLLLLLL CCCC MMMMMMMM YYYYYYYY XXXXXXXX 0010` with llc 63, lcidx 7, lmask 255, ly 100, lx 200. -/
theorem test_decode_load :
    decoded 0b0011111101111111111101100100110010000010#40 = some (.load 200 100 255 7 63) := by decide

theorem test_decode_load_words : decoded 0x01F0000002#40 = some (.load 0 0 0 15 1) ∧
    decoded 0x011FFFFFF2#40 = some (.load 255 255 255 1 1) ∧
    decoded 0x3F90F5AA52#40 = some (.load 165 90 15 9 63) ∧
    decoded 0x0500302012#40 = some (.load 1 2 3 0 5) ∧
    decoded 0xC870707072#40 = some (.load 7 7 7 7 200) := by decide

theorem test_decode_refused_words : refusedFor 0x0000000003#40 = some .reservedOpcode ∧
    refusedFor 0x0000000004#40 = some .reservedBits ∧ refusedFor 0x0000000005#40 = some .reservedBits ∧
    refusedFor 0x8000000001#40 = some .reservedBits ∧ refusedFor 0x01F0000006#40 = some .reservedBits ∧
    refusedFor 0xFFFFFFFFFF#40 = some .reservedOpcode := by decide

theorem test_encode_words : encode (.load 200 100 255 7 63) = 0x3F7FF64C82#40 ∧ encode .nop = 0x0000000000#40 ∧
    encode .tick = 0x0000000001#40 := by decide

theorem test_decodeTableWord : decodeTableWord 40 0x01F0000002 = some (.load 0 0 0 15 1) ∧
    decodeTableWord 40 3 = none ∧ decodeTableWord 40 1 = some .tick := by decide

/-! ### Stages: vectors of 95_test_vectors 2.2 to 2.4 -/

theorem test_phase_vectors : (newX 200 100 0xFF, newY 200 100 0xFF) = (163, 150) ∧
    (newX 255 255 0xFF, newY 255 255 0xFF) = (240, 62) ∧ (newX 0 252 0xFF, newY 0 252 0xFF) = (193, 252) ∧
    (newX 16 253 0x0F, newY 16 253 0x0F) = (16, 1) ∧ (newX 200 100 0xC0, newY 200 100 0xC0) = (200, 100) := by decide

theorem test_mapper_vectors : mirrored (rescale 4) (rescale 234) = [(32, 61), (32, 61), (32, 3), (32, 3)] ∧
    mirrored (rescale 255) (rescale 255) = [(63, 63), (1, 63), (1, 1), (63, 1)] ∧
    mirrored (rescale 163) (rescale 150) = [(52, 50), (12, 50), (12, 14), (52, 14)] := by decide

theorem test_palette_vectors : drawColour 1 15 = ⟨.full, .full, .full⟩ ∧ drawColour 2 15 = ⟨.off, .off, .off⟩ ∧
    drawColour 5 8 = ⟨.off, .off, .off⟩ ∧ drawIndex 63 7 = 7 ∧ drawIndex 4 12 = 0 ∧
    defaultPalette 7 = ⟨.half, .half, .half⟩ ∧ defaultPalette 9 = ⟨.full, .off, .off⟩ := by decide

/-! ### Commands (95_test_vectors 2.6, 2.7) -/

theorem test_nop_keeps_state : nextOf (exec .nop (stateAt 1 1 0 14 63 [])) = some (stateAt 1 1 0 14 63 []) := by decide

/-- The source's scenario: end state and the record `0x2A820` (R69), four times. -/
theorem test_tick_scenario : registersOf (exec .tick (stateAt 0 0 0 15 1 [])) = some (1, 1, 0, 14, 63) ∧
    recordsOf (exec .tick (stateAt 0 0 0 15 1 [])) = some (List.replicate 4 0x2A820#18) := by decide

theorem test_tick_wraps : registersOf (exec .tick (stateAt 255 255 255 1 1 [])) = some (241, 63, 0, 15, 63) ∧
    registersOf (exec .tick (stateAt 165 90 15 9 2 [])) = some (157, 99, 15, 9, 1) := by decide

theorem test_load_sets_registers : registersOf (exec (.load 0 0 0 15 1) (stateAt 9 9 9 9 9 [])) =
    some (0, 0, 0, 15, 1) := by decide

theorem test_load_refused : nextOf (exec (.load 0 0 0 15 64) (stateAt 1 1 0 14 63 [])) =
    some { stateAt 1 1 0 14 63 [] with refusal := some ⟨.illegalLoad, 0⟩ } := by decide

/-! ### Steps -/

theorem test_step_runs_placed_tick :
    registersOf (step (State.reset.withFetchWord 40 1)) = some (0, 0, 0, 15, 62) := by decide

theorem test_step_records_reserved_word : (nextOf (step (State.reset.withFetchWord 40 3))).map (fun t => t.refusal) =
    some (some ⟨.reservedOpcode, 0⟩) := by decide

theorem test_step_reset_seeds : registersOf (step (stateAt 1 2 3 4 5 [.reset 7 8 9 10])) =
    some (7, 8, 9, 10, 63) := by decide

theorem test_step_reset_refuses_zero_colour :
    (nextOf (step (stateAt 1 2 3 4 5 [.reset 7 8 9 0]))).map (fun t => (t.x, t.refusal)) =
      some (1, some ⟨.illegalSeed, 0⟩) := by decide

/-! ### Assembler (R65, R66, R69) -/

theorem test_assemble_seed : assemble (.seed 0xA5 0x5A 0x0F 9) = some [0x3F90F5AA52#40] := by decide

theorem test_assemble_line : assembleText ['L', 'O', 'A', 'D', ' ', '0', ',', ' ', '0', ',', '0', 'x', '0', ',', ' ',
    '1', '5', ',', '1', ' ', ';', 'c'] = some [0x01F0000002#40] := by decide

theorem test_assemble_program : assembleProgram [[';', ' ', 'a'], ['t', 'i', 'c', 'k', 's', ' ', '2'], ['N', 'O', 'P']] =
    some [1#40, 1#40, 0#40] ∧ assembleText ['T', 'I', 'C', 'K', ' ', '2'] = none := by decide

/-! ### Witnesses: for each statement with hypotheses, an input that meets them -/

theorem witness_EncodeOfDecodedIsTheWord : decode 0x0000000001#40 = .ok .tick := rfl

theorem witness_DecodeReadsEveryField_words :
    (0xFFFFFFFFFF#40).toNat % 4 = 3 ∧ ((4#40).toNat % 4 = 0 ∧ (4#40).toNat / 4 ≠ 0) ∧
    ((0x8000000001#40).toNat % 4 = 1 ∧ (0x8000000001#40).toNat / 4 ≠ 0) ∧
    ((0x01F0000006#40).toNat % 4 = 2 ∧ (0x01F0000006#40).toNat / 4 % 4 ≠ 0) ∧
    (0#40).toNat = 0 ∧ (1#40).toNat = 1 ∧ (0xFFFFFFFFF2#40).toNat % 16 = 2 := by decide

theorem witness_refused_word :
    (stateAt 1 1 0 14 63 [.command 3#40]).refusal = none ∧
    (stateAt 1 1 0 14 63 [.command 3#40]).pending = .command 3#40 :: [] ∧
    decode 3#40 = .error .reservedOpcode := ⟨rfl, rfl, rfl⟩

theorem witness_CommandWordsAreCounted : decode 0x0000000004#40 ≠ .ok .nop ∧ decode 0x0000000004#40 ≠ .ok .tick ∧
    ¬ ∃ lx ly lmask lcidx llc, decode 0x0000000004#40 = .ok (.load lx ly lmask lcidx llc) := by
  have h : decode 0x0000000004#40 = .error .reservedBits := rfl
  simp [h]

theorem witness_AssembledLinesDecode : ((255 : Nat) < 256 ∧ (15 : Nat) < 16) ∧ ((256 : Nat) ≤ 256 ∧ (16 : Nat) ≤ 16) := by
  decide

theorem witness_StepRunsTheDecodedCommand : (stateAt 0 0 0 15 63 [.command 0#40]).refusal = none ∧
    (stateAt 0 0 0 15 63 [.command 0#40]).pending = .command 0#40 :: [] ∧ decode 0#40 = .ok .nop ∧
    exec .nop (stateAt 0 0 0 15 63 [.command 0#40]) = .next (stateAt 0 0 0 15 63 [.command 0#40]) :=
  ⟨rfl, rfl, rfl, rfl⟩

theorem witness_PlacedCommandRunsNext : State.reset.refusal = none ∧
    exec .nop (State.reset.withFetchWord 40 (encode .nop).toNat) =
      .next (State.reset.withFetchWord 40 (encode .nop).toNat) := ⟨rfl, rfl⟩

theorem witness_RefusedRunGoesNoFurther : refusedState.refusal = some ⟨.reservedBits, 0⟩ ∧
    exec .nop refusedState = .next refusedState := ⟨rfl, rfl⟩

theorem witness_RunEndsAtItsFirstRefusal :
    (afterSteps 1 (stateAt 0 0 0 15 63 [.command 3#40])).refusal = some ⟨.reservedOpcode, 0⟩ ∧ 1 ≤ 2 := by decide

theorem witness_resets : 1 ≤ (1#4).toNat ∧ 1 ≤ (15#4).toNat ∧ (0#4).toNat = 0 ∧
    (stateAt 0 0 0 15 63 [.reset 1 2 3 15]).refusal = none ∧
    (stateAt 0 0 0 15 63 [.reset 1 2 3 15]).pending = .reset 1 2 3 15 :: [] ∧
    (stateAt 0 0 0 15 63 [.reset 1 2 3 0]).pending = .reset 1 2 3 0 :: [] := by decide

theorem witness_IdleKeepsTheState : (stateAt 0 0 0 15 63 []).refusal = none ∧ (stateAt 0 0 0 15 63 []).pending = [] ∧
    (stateAt 0 0 0 15 63 [.command 0#40]).pending = .command 0#40 :: [] := by decide

theorem witness_ResultDependsOnRegistersAlone :
    (stateAt 1 2 3 4 5 []).x = (stateAt 1 2 3 4 5 [.command 0#40]).x ∧
    (stateAt 1 2 3 4 5 []).y = (stateAt 1 2 3 4 5 [.command 0#40]).y ∧
    (stateAt 1 2 3 4 5 []).mask = (stateAt 1 2 3 4 5 [.command 0#40]).mask ∧
    (stateAt 1 2 3 4 5 []).cidx = (stateAt 1 2 3 4 5 [.command 0#40]).cidx ∧
    (stateAt 1 2 3 4 5 []).lc = (stateAt 1 2 3 4 5 [.command 0#40]).lc ∧
    (stateAt 1 2 3 4 5 []).grid = (stateAt 1 2 3 4 5 [.command 0#40]).grid ∧
    (stateAt 1 2 3 4 5 []).draws = (stateAt 1 2 3 4 5 [.command 0#40]).draws := by decide

theorem witness_NopChangesNothing : (0x8000000000#40).toNat % 4 = 0 ∧ 0x8000000000#40 ≠ 0x0000000000#40 := by decide

theorem witness_LoadSetsAllRegistersOrIsRefused :
    (1 ≤ (1#4).toNat ∧ 1 ≤ (1#8).toNat ∧ (1#8).toNat ≤ 63) ∧ (1 ≤ (15#4).toNat ∧ 1 ≤ (63#8).toNat ∧ (63#8).toNat ≤ 63) ∧
    (0#4).toNat = 0 ∧ (0#8).toNat = 0 ∧ 63 < (64#8).toNat ∧ State.reset.refusal = none ∧
    exec (.load 1 2 3 0 5) State.reset = .next { State.reset with refusal := some ⟨.illegalLoad, 0⟩ } :=
  ⟨by decide, by decide, by decide, by decide, by decide, rfl, rfl⟩

theorem witness_TickFollowsThePseudocode :
    50#8 = ((stateAt 200 100 255 7 63 []).x >>> 2) &&& (stateAt 200 100 255 7 63 []).mask ∧
    150#8 = (stateAt 200 100 255 7 63 []).y + 50#8 ∧
    37#8 = (150#8 >>> 2) &&& (stateAt 200 100 255 7 63 []).mask ∧
    163#8 = (stateAt 200 100 255 7 63 []).x - 37#8 ∧ 20 = (163#8).toNat / 8 ∧ 18 = (150#8).toNat / 8 ∧
    62#8 = (stateAt 200 100 255 7 63 []).lc - 1#8 ∧ (stateAt 200 100 255 7 63 []).cidx ≠ 0#4 ∧
    (0x8000000001#40).toNat % 4 = 1 ∧ 0x8000000001#40 ≠ 0x0000000001#40 := by decide

theorem witness_TickFromColourZero : (stateAt 0 0 0 0 1 []).cidx = 0#4 := rfl

theorem witness_SourceScenario : (stateAt 0 0 0 15 1 []).x = 0#8 ∧ (stateAt 0 0 0 15 1 []).y = 0#8 ∧
    (stateAt 0 0 0 15 1 []).mask = 0#8 ∧ (stateAt 0 0 0 15 1 []).cidx = 15#4 ∧ (stateAt 0 0 0 15 1 []).lc = 1#8 := by
  decide

theorem witness_TickMovesThePositionModulo256 :
    63 = ((stateAt 255 255 255 1 1 []).x.toNat / 4) &&& (stateAt 255 255 255 1 1 []).mask.toNat ∧
    62 = ((stateAt 255 255 255 1 1 []).y.toNat + 63) % 256 ∧
    15 = (62 / 4) &&& (stateAt 255 255 255 1 1 []).mask.toNat ∧
    240 = ((stateAt 255 255 255 1 1 []).x.toNat + 256 - 15) % 256 ∧
    (stateAt 255 255 255 1 1 []).lc.toNat = 1 ∧ (stateAt 255 255 255 1 2 []).lc.toNat ≠ 1 := by decide

theorem witness_MaskedStepsStayBelow64 : (3#8).toNat < 4 ∧ (0#8 : Byte) = 0#8 := by decide

theorem witness_MaskHighBitsOnlyStore : 0xFF#8 &&& 0x3F#8 = (stateAt 200 100 0x3F 7 63 []).mask &&& 0x3F#8 := by decide

theorem witness_ZeroMaskFreezesThePosition : (stateAt 241 63 0 15 63 []).mask = 0#8 := rfl

theorem witness_mapper : 20 = (stateAt 200 100 255 7 63 []).nextX.toNat / 8 ∧
    18 = (stateAt 200 100 255 7 63 []).nextY.toNat / 8 ∧ 0 = (stateAt 0 0 0 15 1 []).nextX.toNat / 8 ∧
    0 = (stateAt 0 0 0 15 1 []).nextY.toNat / 8 := by decide

theorem witness_WritesAreFourFoldSymmetric : 52 = (stateAt 200 100 255 7 63 []).nextX.toNat / 8 + 32 ∧
    50 = (stateAt 200 100 255 7 63 []).nextY.toNat / 8 + 32 := by decide

theorem witness_RunIsOverWhenItsInputsAre : ([.command 3#40, .command 1#40] : List HostInput).length ≤ 3 := by decide

theorem witness_tickWrites_member :
    (⟨32#6, 32#6, ⟨.full, .full, .full⟩⟩ : GridWrite) ∈ (stateAt 0 0 0 15 1 []).tickWrites := by decide

theorem witness_EveryAllowedPaletteIsAParameter : PaletteMeets defaultPalette where
  black0 := by decide
  black8 := by decide
  white15 := by decide
  dim := by decide
  bright := by decide

theorem witness_EvenCounterDrawsBlack : (stateAt 0 0 0 15 2 []).lc.toNat % 2 = 0 ∧
    (stateAt 0 0 0 15 63 []).lc.toNat % 2 = 1 := by decide

theorem witness_IndexEightDrawsBlack : (stateAt 3 250 63 8 5 []).cidx = 8#4 := rfl

theorem witness_TickStepsTheCounterAndTheColour : 1 ≤ (stateAt 0 0 0 1 1 []).cidx.toNat ∧
    (stateAt 0 0 0 1 1 []).lc.toNat = 1 ∧ (stateAt 0 0 0 1 1 []).cidx.toNat = 1 ∧
    2 ≤ (stateAt 0 0 0 2 2 []).lc.toNat ∧ 2 ≤ (stateAt 0 0 0 2 1 []).cidx.toNat ∧
    (stateAt 0 0 0 1 0 []).lc.toNat = 0 := by decide

theorem witness_TickWritesOnlyItsFourCells :
    (∀ w ∈ (stateAt 0 0 0 15 1 []).tickWrites, (0 : Nat) ≠ (gridAddress w.col w.row).toNat) ∧
    (stateAt 0 0 0 15 1 []).tickWrites.reverse.Perm (stateAt 0 0 0 15 1 []).tickWrites :=
  ⟨by decide, List.reverse_perm _⟩

theorem witness_GridAddressIsRowTimes64PlusColumn : gridAddress 63#6 63#6 = gridAddress 63#6 63#6 := rfl

/-- Every statement about a step that answers a next state: at a TICK word, from a state that meets the invariant. -/
theorem witness_step_of_tick : step (stateAt 0 0 0 15 63 [.command 1#40]) =
    .next (afterSteps 1 (stateAt 0 0 0 15 63 [.command 1#40])) ∧
    (stateAt 0 0 0 15 63 [.command 1#40]).pending = .command 1#40 :: [] ∧
    (stateAt 0 0 0 15 63 [.command 1#40]).replayedGrid = (stateAt 0 0 0 15 63 [.command 1#40]).grid ∧
    Memory.wf (stateAt 0 0 0 15 63 [.command 1#40]).grid = true := ⟨rfl, rfl, rfl, rfl⟩

theorem witness_EveryStepKeepsTheInvariant : (stateAt 0 0 0 15 63 [.command 1#40]).Inv where
  inRange := by unfold State.inRange; decide
  gridWf := rfl
  edgeEmpty := fun _ => ⟨rfl, rfl⟩
  fourRecords := by simp [stateAt, State.reset]
  markIndex := by simp [stateAt, State.reset]

theorem witness_runs_of_ticks : (stateAt 0 0 0 15 63 (tickInputs 3 ++ [])).refusal = none ∧
    1 ≤ (stateAt 0 0 0 15 63 (tickInputs 3 ++ [])).lc.toNat ∧ (stateAt 0 0 0 15 63 (tickInputs 3 ++ [])).lc.toNat = 63 ∧
    1 ≤ (stateAt 0 0 0 15 63 (tickInputs 3 ++ [])).cidx.toNat ∧
    (stateAt 0 0 0 15 63 (tickInputs 3 ++ [])).pending = tickInputs (2 + 1) ++ [] ∧
    15 = 15 - (15 - (stateAt 0 0 0 15 63 (tickInputs 3 ++ [])).cidx.toNat + 2 / 63) % 15 := by decide

theorem witness_InterlaceBreaksOnlyAtTheJump : (stateAt 0 0 0 15 1 []).inRange := by
  unfold State.inRange; decide

/-- A LOAD with `llc = 1`, the jump TICK after it, then a reset. -/
theorem witness_ReachableRegistersStayInRange : 1 ≤ (15#4).toNat ∧
    run 3 (launch 0 0 0 15 [.command 0x01F0000002#40, .command 1#40, .reset 7 8 9 10]) =
      .next (afterSteps 3 (launch 0 0 0 15 [.command 0x01F0000002#40, .command 1#40, .reset 7 8 9 10])) :=
  ⟨by decide, rfl⟩

end Sys2Proof.Tests
end

/-! The palette as a parameter (00_scope R5, 43_palette_color_cycler R141): what each index of `paletteOf` holds, and that
an assignment of hues can be read back from any palette that meets the constraints. -/

namespace Sys2Proof.Machine

open Sys2Proof

/-! ### The entries of `paletteOf`, one equation per range of the index -/

@[simp] theorem paletteOf_zero (hue : Nibble → Hue) : paletteOf hue 0#4 = black := rfl

@[simp] theorem paletteOf_eight (hue : Nibble → Hue) : paletteOf hue 8#4 = black := rfl

@[simp] theorem paletteOf_fifteen (hue : Nibble → Hue) : paletteOf hue 15#4 = white := rfl

theorem paletteOf_dim (hue : Nibble → Hue) {i : Nibble} (h1 : 1 ≤ i.toNat) (h7 : i.toNat ≤ 7) :
    paletteOf hue i = hueAt (hue i) .half := by
  have notBlack : ¬(i = 0#4 ∨ i = 8#4) := by bv_omega
  have notWhite : i ≠ 15#4 := by bv_omega
  have low : i.toNat < 8 := by omega
  simp only [paletteOf, notBlack, notWhite, low, if_true, if_false]

theorem paletteOf_bright (hue : Nibble → Hue) {i : Nibble} (h9 : 9 ≤ i.toNat) (h14 : i.toNat ≤ 14) :
    paletteOf hue i = hueAt (hue i) .full := by
  have notBlack : ¬(i = 0#4 ∨ i = 8#4) := by bv_omega
  have notWhite : i ≠ 15#4 := by bv_omega
  have high : ¬i.toNat < 8 := by omega
  simp only [paletteOf, notBlack, notWhite, high, if_false]

/-- The five kinds of index that R141 tells apart. -/
theorem paletteIndex_cases (i : Nibble) :
    i = 0#4 ∨ i = 8#4 ∨ i = 15#4 ∨ (1 ≤ i.toNat ∧ i.toNat ≤ 7) ∨ (9 ≤ i.toNat ∧ i.toNat ≤ 14) := by
  bv_omega

/-! ### The hue of a colour whose lit channels share one level -/

theorem level_ne_full_iff {l : Level} : l ≠ .full ↔ l = .off ∨ l = .half := by
  cases l <;> decide

theorem level_ne_half_iff {l : Level} : l ≠ .half ↔ l = .off ∨ l = .full := by
  cases l <;> decide

/-- A colour with at least one channel lit, all lit ones at one level, is some hue at that level. -/
theorem exists_hueAt_eq {l r g b : Level} (hr : r = .off ∨ r = l) (hg : g = .off ∨ g = l) (hb : b = .off ∨ b = l)
    (lit : r = l ∨ g = l ∨ b = l) : ∃ h : Hue, hueAt h l = ⟨r, g, b⟩ := by
  obtain rfl | rfl := hr <;> obtain rfl | rfl := hg <;> obtain rfl | rfl := hb
  · have isOff : Level.off = l := by simpa only [or_self] using lit
    exact ⟨.red, by rw [← isOff]; rfl⟩
  · exact ⟨.blue, rfl⟩
  · exact ⟨.green, rfl⟩
  · exact ⟨.cyan, rfl⟩
  · exact ⟨.red, rfl⟩
  · exact ⟨.magenta, rfl⟩
  · exact ⟨.yellow, rfl⟩
  · exact ⟨.white, rfl⟩

/-! ### Every allowed palette is an instance -/

/-- R141 entry by entry: some hue of index `i` gives the entry, whatever the hues of the other indices. -/
theorem PaletteMeets.exists_hue {f : Nibble → Colour} (hf : PaletteMeets f) (i : Nibble) :
    ∃ h : Hue, ∀ hue : Nibble → Hue, hue i = h → paletteOf hue i = f i := by
  obtain rfl | rfl | rfl | ⟨h1, h7⟩ | ⟨h9, h14⟩ := paletteIndex_cases i
  · exact ⟨.red, fun hue _ => (paletteOf_zero hue).trans hf.black0.symm⟩
  · exact ⟨.red, fun hue _ => (paletteOf_eight hue).trans hf.black8.symm⟩
  · exact ⟨.red, fun hue _ => (paletteOf_fifteen hue).trans hf.white15.symm⟩
  · obtain ⟨hr, hg, hb, lit⟩ := hf.dim i h1 h7
    obtain ⟨h, hh⟩ :=
      exists_hueAt_eq (level_ne_full_iff.1 hr) (level_ne_full_iff.1 hg) (level_ne_full_iff.1 hb) lit
    exact ⟨h, fun hue hi => by rw [paletteOf_dim hue h1 h7, hi, hh]⟩
  · obtain ⟨hr, hg, hb, lit⟩ := hf.bright i h9 h14
    obtain ⟨h, hh⟩ :=
      exists_hueAt_eq (level_ne_half_iff.1 hr) (level_ne_half_iff.1 hg) (level_ne_half_iff.1 hb) lit
    exact ⟨h, fun hue hi => by rw [paletteOf_bright hue h9 h14, hi, hh]⟩

/-- Settles O38: the hue of each index is chosen from that entry alone. -/
theorem everyAllowedPaletteIsAParameter : Obligations.EveryAllowedPaletteIsAParameter := by
  intro f hf
  choose hue hhue using hf.exists_hue
  exact ⟨hue, funext fun i => hhue i hue rfl⟩

end Sys2Proof.Machine

/-! What every step keeps (10_state R33, 20_memory R41 and R45, 44_update_sequencer R164, 60_exceptions R181): an induction
rule over the operations of a step, the TICK's effect on each part of the invariant, and what bits 7 and 6 of `MASK` can
change (10_state R23). -/

namespace Sys2Proof.Machine

open Sys2Proof

/-! ### The operations a step is made of -/

/-- Each operation of a step keeps `P`: the meaning of a TICK, registers loaded with legal values (by LOAD or by reset), a
refusal recorded, and the two ways an input is taken. -/
structure KeptByOperations (P : State → Prop) : Prop where
  tick : ∀ {s : State}, P s → P s.afterTick
  load : ∀ {s : State} (x y mask : Byte) {cidx : Nibble} {lc : Byte}, 1 ≤ cidx.toNat → 1 ≤ lc.toNat → lc.toNat ≤ 63 →
    P s → P (s.loadRegisters x y mask cidx lc)
  refuse : ∀ {s : State} (r : RefusalReason), P s → P (s.refuse r)
  takeCommand : ∀ {s : State}, P s → P s.takeCommand
  takeReset : ∀ {s : State}, P s → P s.takeReset

namespace KeptByOperations

variable {P : State → Prop}

theorem keeps_exec (hP : KeptByOperations P) {s t : State} (i : Instr) (hs : P s) (h : exec i s = .next t) : P t := by
  cases i with
  | nop => rw [exec_nop] at h; cases h; exact hs
  | tick => rw [exec_tick] at h; cases h; exact hP.tick hs
  | load lx ly lmask lcidx llc =>
    obtain ⟨⟨hc, hl, hl'⟩, e⟩ | ⟨-, e⟩ := exec_load_cases lx ly lmask lcidx llc s
    · rw [e] at h; cases h; exact hP.load lx ly lmask hc hl hl' hs
    · rw [e] at h; cases h; exact hP.refuse .illegalLoad hs

theorem keeps_runWord (hP : KeptByOperations P) {s t : State} (w : CommandWord) (hs : P s) (h : runWord w s = .next t) :
    P t := by
  obtain ⟨i, -, e⟩ | ⟨r, -, e⟩ := runWord_cases w s
  · rw [e] at h; exact hP.keeps_exec i hs h
  · rw [e] at h; cases h; exact hP.refuse r hs

theorem keeps_applyReset (hP : KeptByOperations P) {s : State} (sx sy smask : Byte) (scolor : Nibble) (hs : P s) :
    P (s.applyReset sx sy smask scolor) := by
  obtain ⟨hc, e⟩ | ⟨-, e⟩ := State.applyReset_cases s sx sy smask scolor
  · rw [e]; exact hP.load sx sy smask hc (by decide) (by decide) hs
  · rw [e]; exact hP.refuse .illegalSeed hs

/-- What each operation keeps, every step keeps. -/
theorem keeps_step (hP : KeptByOperations P) {s t : State} (hs : P s) (h : step s = .next t) : P t := by
  obtain ⟨-, ⟨-, rfl⟩ | ⟨sx, sy, smask, scolor, -, -, rfl⟩ | ⟨w, -, u, -, hu, rfl⟩⟩ := step_next_cases h
  · exact hs
  · exact hP.takeReset (hP.keeps_applyReset sx sy smask scolor hs)
  · exact hP.takeCommand (hP.keeps_runWord w hs hu)

/-- What each operation keeps, every run keeps. -/
theorem keeps_run (hP : KeptByOperations P) {n : Nat} {s t : State} (hs : P s) (h : run n s = .next t) : P t :=
  run_keeps (fun _ _ => hP.keeps_step) hs h

end KeptByOperations

/-! ### What a TICK leaves, field by field -/

section
variable (s : State)

@[simp] theorem State.afterTick_grid : s.afterTick.grid = Memory.gridWrites s.grid s.tickWrites := by
  obtain ⟨_, _, _, _, _, _, h⟩ := s.afterTick_frame
  rw [h]

@[simp] theorem State.afterTick_trace : s.afterTick.trace = s.trace ++ [s.tickWrites.map recordOf] := by
  obtain ⟨_, _, _, _, _, _, h⟩ := s.afterTick_frame
  rw [h]

@[simp] theorem State.afterTick_refusal : s.afterTick.refusal = s.refusal := by
  obtain ⟨_, _, _, _, _, _, h⟩ := s.afterTick_frame
  rw [h]

@[simp] theorem State.afterTick_position : s.afterTick.position = s.position := by
  obtain ⟨_, _, _, _, _, _, h⟩ := s.afterTick_frame
  rw [h]

@[simp] theorem State.tickWrites_length : s.tickWrites.length = 4 := rfl

end

/-! ### Legal registers (10_state R33) -/

/-- `CIDX` has 4 bits, so its upper bound needs no proof. -/
theorem State.inRange_iff (s : State) :
    s.inRange ↔ 1 ≤ s.cidx.toNat ∧ 1 ≤ s.lc.toNat ∧ s.lc.toNat ≤ 63 := by
  have hc : s.cidx.toNat < 16 := s.cidx.isLt
  unfold State.inRange
  omega

/-- The colour step leaves a legal colour, from any colour. -/
theorem State.stepColour_inRange {s : State} (h1 : 1 ≤ s.lc.toNat) (h63 : s.lc.toNat ≤ 63) : s.stepColour.inRange := by
  obtain ⟨c, m, n, hc, e⟩ := s.stepColour_frame
  have hc1 : 1 ≤ c.toNat := by bv_omega
  rw [e, State.inRange_iff]
  exact ⟨hc1, h1, h63⟩

theorem State.countDown_inRange {s : State} (hs : s.inRange) : s.countDown.inRange := by
  rw [State.countDown_eq]
  split
  next => exact State.stepColour_inRange (by simp) (by simp)
  next hlc =>
    rw [State.inRange_iff] at hs ⊢
    obtain ⟨hc, h1, h63⟩ := hs
    simp only [State.setCounter_cidx, State.setCounter_lc]
    bv_omega

theorem inRange_keptByOperations : KeptByOperations State.inRange where
  tick hs := State.countDown_inRange hs
  load _ _ _ _ _ hc h1 h63 _ := (State.inRange_iff _).2 ⟨hc, h1, h63⟩
  refuse _ hs := hs
  takeCommand hs := hs
  takeReset hs := hs

/-! ### The edge (20_memory R45) -/

/-- Different cells have different addresses (20_memory R41). -/
theorem gridAddress_toNat_inj {c c' r r' : BitVec 6} :
    (gridAddress c r).toNat = (gridAddress c' r').toNat ↔ c = c' ∧ r = r' := by
  rw [gridAddress_toNat, gridAddress_toNat]
  bv_omega

theorem outward_ne_zero (g : BitVec 5) : outward g ≠ 0#6 := by
  have h := outward_toNat g
  bv_omega

theorem inward_ne_zero (g : BitVec 5) : inward g ≠ 0#6 := by
  have h := inward_toNat g
  bv_omega

/-- No write of a TICK names column 0 or row 0. -/
theorem State.tickWrites_off_edge (s : State) : ∀ w ∈ s.tickWrites, w.col ≠ 0#6 ∧ w.row ≠ 0#6 := by
  simp [State.tickWrites, mirrored, outward_ne_zero, inward_ne_zero]

/-- A cell after a TICK: the drawn colour where a write names the cell, else what it held. -/
theorem State.afterTick_cell (s : State) (col row : BitVec 6) :
    s.afterTick.cell col row =
      if ∃ w ∈ s.tickWrites, col = w.col ∧ row = w.row then some s.tickColour else s.cell col row := by
  simp only [State.cell, State.afterTick_grid, Memory.read_gridWrites_of_colour s.tickWrites_colour,
    gridAddress_toNat_inj]

/-- A TICK leaves every cell of the edge as it was. -/
theorem State.afterTick_cell_of_edge (s : State) {col row : BitVec 6} (h : col = 0#6 ∨ row = 0#6) :
    s.afterTick.cell col row = s.cell col row := by
  rw [State.afterTick_cell, if_neg]
  rintro ⟨w, hw, rfl, rfl⟩
  obtain ⟨hcol, hrow⟩ := s.tickWrites_off_edge w hw
  exact h.elim hcol hrow

theorem State.edgeEmpty_afterTick {s : State} (hs : s.edgeEmpty) : s.afterTick.edgeEmpty := by
  intro v
  obtain ⟨hcol, hrow⟩ := hs v
  exact ⟨(s.afterTick_cell_of_edge (.inl rfl)).trans hcol, (s.afterTick_cell_of_edge (.inr rfl)).trans hrow⟩

/-! ### The whole invariant -/

namespace State.Inv

variable {s : State}

theorem afterTick (hs : s.Inv) : s.afterTick.Inv where
  inRange := State.countDown_inRange hs.inRange
  gridWf := by rw [State.afterTick_grid]; exact Memory.wf_gridWrites s.tickWrites hs.gridWf
  edgeEmpty := State.edgeEmpty_afterTick hs.edgeEmpty
  fourRecords recs hrecs := by
    rw [State.afterTick_trace, List.mem_append, List.mem_singleton] at hrecs
    obtain hold | hnew := hrecs
    · exact hs.fourRecords recs hold
    · exact ⟨s.tickWrites, s.tickWrites_length, hnew⟩
  markIndex m hm := by
    rw [State.afterTick_refusal] at hm
    rw [State.afterTick_position]
    exact hs.markIndex m hm

theorem loadRegisters (x y mask : Byte) {cidx : Nibble} {lc : Byte} (hc : 1 ≤ cidx.toNat) (h1 : 1 ≤ lc.toNat)
    (h63 : lc.toNat ≤ 63) (hs : s.Inv) : (s.loadRegisters x y mask cidx lc).Inv where
  inRange := inRange_keptByOperations.load x y mask hc h1 h63 hs.inRange
  gridWf := hs.gridWf
  edgeEmpty := hs.edgeEmpty
  fourRecords := hs.fourRecords
  markIndex := hs.markIndex

/-- A mark already set stays; a new one names the position itself. -/
theorem refuse (r : RefusalReason) (hs : s.Inv) : (s.refuse r).Inv where
  inRange := hs.inRange
  gridWf := hs.gridWf
  edgeEmpty := hs.edgeEmpty
  fourRecords := hs.fourRecords
  markIndex m hm := by
    cases hmark : s.refusal with
    | none =>
      rw [State.refuse_of_none r hmark] at hm ⊢
      cases hm
      exact Nat.le_refl s.position
    | some m' =>
      rw [State.refuse_of_some r hmark] at hm ⊢
      exact hs.markIndex m hm

theorem takeCommand (hs : s.Inv) : s.takeCommand.Inv where
  inRange := hs.inRange
  gridWf := hs.gridWf
  edgeEmpty := hs.edgeEmpty
  fourRecords := hs.fourRecords
  markIndex m hm := Nat.le_succ_of_le (hs.markIndex m hm)

theorem takeReset (hs : s.Inv) : s.takeReset.Inv where
  inRange := hs.inRange
  gridWf := hs.gridWf
  edgeEmpty := hs.edgeEmpty
  fourRecords := hs.fourRecords
  markIndex := hs.markIndex

end State.Inv

theorem inv_keptByOperations : KeptByOperations State.Inv where
  tick := State.Inv.afterTick
  load := State.Inv.loadRegisters
  refuse := State.Inv.refuse
  takeCommand := State.Inv.takeCommand
  takeReset := State.Inv.takeReset

/-- Settles O52: each operation a step is made of keeps the invariant. -/
theorem everyStepKeepsTheInvariant : Obligations.EveryStepKeepsTheInvariant :=
  fun _ _ => inv_keptByOperations.keeps_step

/-! ### Launches -/

/-- A launch with a legal colour seed is the reset state with the seeds loaded (70_reset_and_hazards R200, R205). -/
theorem launch_of_legal (sx sy smask : Byte) {scolor : Nibble} (inputs : List HostInput) (h : 1 ≤ scolor.toNat) :
    launch sx sy smask scolor inputs =
      { State.reset.loadRegisters sx sy smask scolor 63#8 with pending := inputs } := by
  rw [launch, State.applyReset, if_pos ((seedLegal_iff scolor).2 h)]

theorem launch_inRange (sx sy smask : Byte) {scolor : Nibble} (inputs : List HostInput) (h : 1 ≤ scolor.toNat) :
    (launch sx sy smask scolor inputs).inRange := by
  rw [launch_of_legal sx sy smask inputs h, State.inRange_iff]
  exact ⟨h, show 1 ≤ (63#8).toNat by decide, show (63#8).toNat ≤ 63 by decide⟩

/-- Settles O54: every run keeps the ranges that the launch starts in; the 8-bit registers cannot leave theirs. -/
theorem reachableRegistersStayInRange : Obligations.ReachableRegistersStayInRange := by
  intro sx sy smask scolor inputs n t hseed hrun
  have hrange : t.inRange := inRange_keptByOperations.keeps_run (launch_inRange sx sy smask inputs hseed) hrun
  exact ⟨Nat.le_of_lt_succ t.x.isLt, Nat.le_of_lt_succ t.y.isLt, Nat.le_of_lt_succ t.mask.isLt, hrange⟩

/-- Reset never touches the grid store, with legal seeds or refused (70_reset_and_hazards R200, R201). -/
@[simp] theorem State.applyReset_grid (s : State) (sx sy smask : Byte) (scolor : Nibble) :
    (s.applyReset sx sy smask scolor).grid = s.grid := by
  obtain ⟨-, e⟩ | ⟨-, e⟩ := s.applyReset_cases sx sy smask scolor <;> rw [e]
  · exact State.loadRegisters_grid s sx sy smask scolor 63#8
  · exact State.refuse_grid s .illegalSeed

@[simp] theorem State.applyReset_trace (s : State) (sx sy smask : Byte) (scolor : Nibble) :
    (s.applyReset sx sy smask scolor).trace = s.trace := by
  obtain ⟨-, e⟩ | ⟨-, e⟩ := s.applyReset_cases sx sy smask scolor <;> rw [e]
  · exact State.loadRegisters_trace s sx sy smask scolor 63#8
  · exact State.refuse_trace s .illegalSeed

@[simp] theorem launch_grid (sx sy smask : Byte) (scolor : Nibble) (inputs : List HostInput) :
    (launch sx sy smask scolor inputs).grid = [] :=
  State.applyReset_grid State.reset sx sy smask scolor

@[simp] theorem launch_trace (sx sy smask : Byte) (scolor : Nibble) (inputs : List HostInput) :
    (launch sx sy smask scolor inputs).trace = [] :=
  State.applyReset_trace State.reset sx sy smask scolor

/-- No records leave the new grid as it is. -/
theorem State.replayedGrid_of_trace_nil {s : State} (h : s.trace = []) : s.replayedGrid = [] := by
  rw [State.replayedGrid, h]
  rfl

/-- Settles O56: at reset and at a launch there are neither records nor written cells. -/
theorem launchedGridIsRebuiltFromNoRecords : Obligations.LaunchedGridIsRebuiltFromNoRecords := by
  refine ⟨State.replayedGrid_of_trace_nil rfl, fun sx sy smask scolor inputs => ?_⟩
  rw [State.replayedGrid_of_trace_nil (launch_trace sx sy smask scolor inputs), launch_grid]

/-! ### Bits 7 and 6 of `MASK` (10_state R23, 40_commands R87) -/

/-- A masked step reads bits 5 to 0 of the mask alone: the shift leaves nothing above them. -/
theorem maskedStep_low_bits (v mask : Byte) : maskedStep v (mask &&& 0x3F#8) = maskedStep v mask := by
  have shifted : ∀ v : Byte, (v >>> 2) &&& 0x3F#8 = v >>> 2 := by decide
  calc (v >>> 2) &&& (mask &&& 0x3F#8)
    _ = ((v >>> 2) &&& 0x3F#8) &&& mask := by rw [BitVec.and_comm mask, BitVec.and_assoc]
    _ = (v >>> 2) &&& mask := by rw [shifted]

section
variable {m mask : Byte} (h : m &&& 0x3F#8 = mask &&& 0x3F#8)
include h

theorem maskedStep_congr_low_bits (v : Byte) : maskedStep v m = maskedStep v mask := by
  rw [← maskedStep_low_bits v m, h, maskedStep_low_bits]

theorem newY_congr_low_bits (x y : Byte) : newY x y m = newY x y mask := by
  rw [newY, newY, firstStep, firstStep, maskedStep_congr_low_bits h]

theorem newX_congr_low_bits (x y : Byte) : newX x y m = newX x y mask := by
  rw [newX, newX, secondStep, secondStep, maskedStep_congr_low_bits h, newY_congr_low_bits h]

end

/-- The colour step as one update: `CIDX` and `MASK` by the wrap (43_palette_color_cycler R146, R147), and a draw counted
where the decrement has no stated value. -/
theorem State.stepColour_eq (s : State) :
    s.stepColour = { s with
      cidx := if colourWrap (decrementColour s.cidx s.draws) then 15#4 else decrementColour s.cidx s.draws
      mask := s.mask + if colourWrap (decrementColour s.cidx s.draws) then 1#8 else 0#8
      draws := if s.cidx = 0#4 then s.draws + 1 else s.draws } := by
  by_cases wrap : colourWrap (decrementColour s.cidx s.draws) = true <;> by_cases noValue : s.cidx = 0#4
  · simp only [State.stepColour, if_pos wrap, if_pos noValue]; rfl
  · simp only [State.stepColour, if_pos wrap, if_neg noValue]; rfl
  · simp only [State.stepColour, if_neg wrap, if_pos noValue, BitVec.add_zero]; rfl
  · simp only [State.stepColour, if_neg wrap, if_neg noValue, BitVec.add_zero]; rfl

/-- The colour step moves `MASK` by an amount that does not depend on `MASK`, and nothing else it does reads it. -/
theorem State.stepColour_withMask (s : State) (m : Byte) :
    ({ s with mask := m } : State).stepColour =
      { s.stepColour with mask := m + (s.stepColour.mask - s.mask) } := by
  simp only [State.stepColour_eq, add_sub_cancel_left]

theorem State.countDown_withMask (s : State) (m : Byte) :
    ({ s with mask := m } : State).countDown =
      { s.countDown with mask := m + (s.countDown.mask - s.mask) } := by
  rw [State.countDown_eq, State.countDown_eq]
  by_cases hj : s.lc = 1#8
  · simp only [hj, if_true]
    exact State.stepColour_withMask (s.setCounter 63#8).bumpPosition m
  · simp only [hj, if_false, State.setCounter_mask, BitVec.sub_self, BitVec.add_zero]
    rfl

/-- Settles O31: the writes and the position read bits 5 to 0 of `MASK`, and the count down only steps it. -/
theorem maskHighBitsOnlyStore : Obligations.MaskHighBitsOnlyStore := by
  intro s m h
  refine ⟨s.afterTick, exec_tick s, ?_⟩
  have hx : ({ s with mask := m } : State).nextX = s.nextX := newX_congr_low_bits h s.x s.y
  have hy : ({ s with mask := m } : State).nextY = s.nextY := newY_congr_low_bits h s.x s.y
  have hw : ({ s with mask := m } : State).tickWrites = s.tickWrites := by
    rw [State.tickWrites, State.tickWrites, hx, hy]; rfl
  rw [exec_tick, State.afterTick, hx, hy, hw]
  exact congrArg _ (State.countDown_withMask ((s.issueWrites s.tickWrites).commitPosition s.nextX s.nextY) m)

end Sys2Proof.Machine

/-! The grid store along a run (20_memory R41, R45 to R47): a step leaves the grid and the records alone or is a TICK's;
a TICK's writes can be read back from its records (30_encoding R67), make one store in any order, and stay off the edge. -/

namespace Sys2Proof.Machine

open Sys2Proof

/-! ### The records carry the writes (30_encoding R67) -/

@[simp] theorem levelOfBits_levelBits (l : Level) : levelOfBits (levelBits l) = some l := by
  cases l <;> rfl

/-- Each field of R67's layout, taken out of an 18-bit concatenation. -/
theorem extract_record_fields (r g b : BitVec 2) (row col : BitVec 6) :
    (r ++ g ++ b ++ row ++ col).extractLsb' 16 2 = r ∧ (r ++ g ++ b ++ row ++ col).extractLsb' 14 2 = g ∧
    (r ++ g ++ b ++ row ++ col).extractLsb' 12 2 = b ∧ (r ++ g ++ b ++ row ++ col).extractLsb' 6 6 = row ∧
    (r ++ g ++ b ++ row ++ col).extractLsb' 0 6 = col := by
  simp (disch := decide) only [BitVec.extractLsb'_append_eq_of_le, BitVec.extractLsb'_append_eq_right,
    BitVec.extractLsb'_eq_self, Nat.reduceSub, and_self]

/-- A record stands for the write it was made of. -/
@[simp] theorem writeOfRecord_recordOf (w : GridWrite) : writeOfRecord (recordOf w) = some w := by
  obtain ⟨hr, hg, hb, hrow, hcol⟩ := extract_record_fields (levelBits w.colour.r) (levelBits w.colour.g)
    (levelBits w.colour.b) w.row w.col
  simp only [writeOfRecord, recordOf, hr, hg, hb, hrow, hcol, levelOfBits_levelBits]

/-- The records of some writes stand for these writes, in their order. -/
theorem filterMap_writeOfRecord_map_recordOf (ws : List GridWrite) :
    (ws.map recordOf).filterMap writeOfRecord = ws := by
  rw [List.filterMap_map, funext writeOfRecord_recordOf (f := writeOfRecord ∘ recordOf), List.filterMap_some]

/-- A TICK's records do to the rebuilt grid what its writes do to the grid. -/
theorem State.replayedGrid_afterTick (s : State) :
    s.afterTick.replayedGrid = Memory.gridWrites s.replayedGrid s.tickWrites := by
  simp only [State.replayedGrid, State.afterTick_trace, List.flatten_append, List.flatten_singleton,
    List.filterMap_append, filterMap_writeOfRecord_map_recordOf, Memory.gridWrites_append]

theorem replayedGrid_keptByOperations : KeptByOperations fun s => s.replayedGrid = s.grid where
  tick {s} hs := by rw [State.replayedGrid_afterTick, hs, State.afterTick_grid]
  load _ _ _ _ _ _ _ _ hs := hs
  refuse _ hs := hs
  takeCommand hs := hs
  takeReset hs := hs

/-- Settles O55: each operation a step is made of keeps the records and the grid together. -/
theorem recordsAlwaysRebuildTheGrid : Obligations.RecordsAlwaysRebuildTheGrid :=
  fun _ _ => replayedGrid_keptByOperations.keeps_step

/-! ### A step changes the grid by a TICK's writes alone (20_memory R47) -/

/-- The one word of TICK (30_encoding R60): any other word with its `op` has a reserved bit set, and is refused. -/
theorem decode_eq_tick_iff (w : CommandWord) : decode w = .ok .tick ↔ w = 0x0000000001#40 := by
  constructor
  · intro h
    have fields : opField w = 0b01#2 ∧ upperField w = 0#38 := by
      unfold decode at h
      split_ifs at h with h3 h0 h1 h2 hnop htick
      · cases h
      · exact ⟨htick, not_not.1 fun hne => h1 ⟨htick, hne⟩⟩
      · cases h
    obtain ⟨hop, hupper⟩ := fields
    calc w
      _ = upperField w ++ opField w := (BitVec.extractLsb'_append_extractLsb' (w := 38) (len := 2)).symm
      _ = 0x0000000001#40 := by rw [hop, hupper]; rfl
  · rintro rfl
    rfl

/-- A command word leaves the grid alone, or it is TICK's. -/
theorem runWord_grid_cases {w : CommandWord} {s u : State} (h : runWord w s = .next u) :
    u.grid = s.grid ∨ (w = 0x0000000001#40 ∧ u = s.afterTick) := by
  obtain ⟨i, hi, e⟩ | ⟨r, -, e⟩ := runWord_cases w s <;> rw [e] at h
  · cases i with
    | nop => rw [exec_nop] at h; cases h; exact .inl rfl
    | tick => rw [exec_tick] at h; cases h; exact .inr ⟨(decode_eq_tick_iff w).1 hi, rfl⟩
    | load lx ly lmask lcidx llc =>
      left
      obtain ⟨-, e⟩ | ⟨-, e⟩ := exec_load_cases lx ly lmask lcidx llc s <;> rw [e] at h <;> cases h
      · exact State.loadRegisters_grid s lx ly lmask lcidx llc
      · exact State.refuse_grid s .illegalLoad
  · cases h
    exact .inl (State.refuse_grid s r)

/-- A step leaves the grid alone, or it takes a TICK word. -/
theorem step_grid_cases {s t : State} (h : step s = .next t) :
    t.grid = s.grid ∨
      ∃ rest, s.pending = .command 0x0000000001#40 :: rest ∧ t = s.afterTick.takeCommand := by
  obtain ⟨-, ⟨-, rfl⟩ | ⟨sx, sy, smask, scolor, -, -, rfl⟩ | ⟨w, rest, u, hp, hu, rfl⟩⟩ := step_next_cases h
  · exact .inl rfl
  · exact .inl (State.applyReset_grid s sx sy smask scolor)
  · obtain hgrid | ⟨rfl, rfl⟩ := runWord_grid_cases hu
    · exact .inl hgrid
    · exact .inr ⟨rest, hp, rfl⟩

/-- A step at a TICK word. -/
theorem step_tick {s : State} {rest : List HostInput} (hm : s.refusal = none)
    (hp : s.pending = .command 0x0000000001#40 :: rest) : step s = .next s.afterTick.takeCommand :=
  step_command hm hp

/-- Writes of one colour make one canonical store in any order (20_memory R47). -/
theorem Memory.gridWrites_perm {m : Memory} {ws vs : List GridWrite} {c : Colour} (hm : Memory.wf m = true)
    (hp : ws.Perm vs) (hc : ∀ w ∈ vs, w.colour = c) : Memory.gridWrites m ws = Memory.gridWrites m vs := by
  have hc' : ∀ w ∈ ws, w.colour = c := fun w hw => hc w (hp.mem_iff.1 hw)
  refine Memory.ext_of_wf (Memory.wf_gridWrites ws hm) (Memory.wf_gridWrites vs hm) fun a => ?_
  simp only [Memory.read_gridWrites_of_colour hc', Memory.read_gridWrites_of_colour hc, hp.mem_iff]

/-- Settles O45: a step that goes on leaves the grid or is a TICK's; the four writes of a TICK share its colour. -/
theorem onlyTicksChangeTheGrid : Obligations.OnlyTicksChangeTheGrid := by
  refine ⟨fun s t h => ?_, fun s t rest hp h => ?_, fun s ws hwf hperm => ?_⟩
  · obtain hgrid | ⟨rest, hp, rfl⟩ := step_grid_cases h
    · exact .inl hgrid
    · exact .inr ⟨⟨rest, hp⟩, s.afterTick_grid⟩
  · obtain ⟨hm, -⟩ := step_next_cases h
    rw [step_tick hm hp] at h
    cases h
    exact s.afterTick_grid
  · exact Memory.gridWrites_perm hwf hperm s.tickWrites_colour

/-! ### The edge along a run (20_memory R45) -/

/-- No operation of a step changes a cell of the edge. -/
theorem edgeCell_keptByOperations {col row : BitVec 6} (h : col = 0#6 ∨ row = 0#6) (content : Option Colour) :
    KeptByOperations fun s => s.cell col row = content where
  tick {s} hs := (s.afterTick_cell_of_edge h).trans hs
  load _ _ _ _ _ _ _ _ hs := hs
  refuse _ hs := hs
  takeCommand hs := hs
  takeReset hs := hs

/-- What every step keeps, a run that ends at its first refusal keeps. -/
theorem afterSteps_keeps {P : State → Prop} (hP : ∀ s t, P s → step s = .next t → P t) (n : Nat) {s : State}
    (hs : P s) : P (afterSteps n s) := by
  induction n generalizing s with
  | zero => exact hs
  | succ n ih =>
    rw [afterSteps]
    split
    next t h => exact ih (hP s t hs h)
    next => exact hs
    next => exact hs

/-- A cell of a new grid was never written. -/
theorem launch_cell (sx sy smask : Byte) (scolor : Nibble) (inputs : List HostInput) (col row : BitVec 6) :
    (launch sx sy smask scolor inputs).cell col row = none := by
  rw [State.cell, launch_grid, Memory.read_nil]

/-- A step leaves every cell of the edge as it was. -/
theorem step_cell_of_edge {s t : State} (h : step s = .next t) {col row : BitVec 6} (edge : col = 0#6 ∨ row = 0#6) :
    t.cell col row = s.cell col row :=
  (edgeCell_keptByOperations edge (s.cell col row)).keeps_step rfl h

/-- In a run from a launch every cell of the edge stays as created. -/
theorem afterSteps_launch_cell_of_edge (sx sy smask : Byte) (scolor : Nibble) (inputs : List HostInput) (n : Nat)
    {col row : BitVec 6} (edge : col = 0#6 ∨ row = 0#6) :
    (afterSteps n (launch sx sy smask scolor inputs)).cell col row = none :=
  afterSteps_keeps (fun _ _ => (edgeCell_keptByOperations edge none).keeps_step) n
    (launch_cell sx sy smask scolor inputs col row)

/-- Settles O46: a cell of column 0 or of row 0 is a cell of the edge. -/
theorem edgeCellsAreNeverWritten : Obligations.EdgeCellsAreNeverWritten :=
  ⟨fun _ _ h _ => ⟨step_cell_of_edge h (.inl rfl), step_cell_of_edge h (.inr rfl)⟩,
    fun sx sy smask scolor inputs n _ =>
      ⟨afterSteps_launch_cell_of_edge sx sy smask scolor inputs n (.inl rfl),
        afterSteps_launch_cell_of_edge sx sy smask scolor inputs n (.inr rfl)⟩⟩

/-! ### Addresses (20_memory R41) -/

/-- Settles O44: equal addresses are equal numbers, which `gridAddress_toNat_inj` takes apart. -/
theorem gridAddressIsRowTimes64PlusColumn : Obligations.GridAddressIsRowTimes64PlusColumn :=
  ⟨gridAddress_toNat, fun _ _ _ _ h => gridAddress_toNat_inj.1 (congrArg BitVec.toNat h)⟩

end Sys2Proof.Machine

/-! Command words (30_encoding R60 to R64): the decoder by the value of `op`, the fields of a word put together and taken
apart, and decode and encode as inverses of each other. -/

namespace Sys2Proof

/-! ### The decoder by the value of `op` (R61, R63) -/

theorem opField_cases (w : CommandWord) :
    opField w = 0b00#2 ∨ opField w = 0b01#2 ∨ opField w = 0b10#2 ∨ opField w = 0b11#2 := by
  bv_omega

section
variable {w : CommandWord}

theorem decode_of_op_reserved (h : opField w = 0b11#2) : decode w = .error .reservedOpcode := by
  simp [decode, h]

theorem decode_of_op_nop (h : opField w = 0b00#2) :
    decode w = if upperField w = 0#38 then .ok .nop else .error .reservedBits := by
  by_cases hu : upperField w = 0#38 <;> simp [decode, h, hu]

theorem decode_of_op_tick (h : opField w = 0b01#2) :
    decode w = if upperField w = 0#38 then .ok .tick else .error .reservedBits := by
  by_cases hu : upperField w = 0#38 <;> simp [decode, h, hu]

theorem decode_of_op_load (h : opField w = 0b10#2) :
    decode w = if rsvField w = 0#2 then
      .ok (.load (lxField w) (lyField w) (lmaskField w) (lcidxField w) (llcField w)) else .error .reservedBits := by
  by_cases hr : rsvField w = 0#2 <;> simp [decode, h, hr]

end

/-! ### The fields of a word (R60, R62) -/

/-- A word is its reserved bits over its `op`. -/
theorem upperField_append_opField (w : CommandWord) : upperField w ++ opField w = w :=
  BitVec.extractLsb'_append_extractLsb' (w := 38) (len := 2)

/-- A word is LOAD's seven fields, one over the other. -/
theorem load_fields_append (w : CommandWord) :
    llcField w ++ lcidxField w ++ lmaskField w ++ lyField w ++ lxField w ++ (rsvField w ++ opField w) = w := by
  simp (disch := decide) only [llcField, lcidxField, lmaskField, lyField, lxField, rsvField, opField,
    BitVec.extractLsb'_append_extractLsb'_eq_extractLsb']
  exact BitVec.extractLsb'_eq_self

/-- Each operand of a LOAD is the field of its word. -/
theorem encode_load_fields (lx ly lmask : Byte) (lcidx : Nibble) (llc : Byte) :
    lxField (encode (.load lx ly lmask lcidx llc)) = lx ∧ lyField (encode (.load lx ly lmask lcidx llc)) = ly ∧
    lmaskField (encode (.load lx ly lmask lcidx llc)) = lmask ∧
    lcidxField (encode (.load lx ly lmask lcidx llc)) = lcidx ∧
    llcField (encode (.load lx ly lmask lcidx llc)) = llc := by
  simp (disch := decide) only [encode, lxField, lyField, lmaskField, lcidxField, llcField,
    BitVec.extractLsb'_append_eq_of_le, BitVec.extractLsb'_append_eq_right, BitVec.extractLsb'_eq_self, Nat.reduceSub,
    and_self]

/-! ### The fields as numbers -/

section
variable (w : CommandWord)

theorem opField_toNat : (opField w).toNat = w.toNat % 4 := by
  simp [opField]

theorem upperField_toNat : (upperField w).toNat = w.toNat / 4 := by
  simp only [upperField, BitVec.extractLsb'_toNat, Nat.shiftRight_eq_div_pow]
  omega

theorem rsvField_toNat : (rsvField w).toNat = w.toNat / 4 % 4 := by
  simp [rsvField, Nat.shiftRight_eq_div_pow]

theorem lxField_toNat : (lxField w).toNat = w.toNat / 2 ^ 4 % 256 := by
  simp [lxField, Nat.shiftRight_eq_div_pow]

theorem lyField_toNat : (lyField w).toNat = w.toNat / 2 ^ 12 % 256 := by
  simp [lyField, Nat.shiftRight_eq_div_pow]

theorem lmaskField_toNat : (lmaskField w).toNat = w.toNat / 2 ^ 20 % 256 := by
  simp [lmaskField, Nat.shiftRight_eq_div_pow]

theorem lcidxField_toNat : (lcidxField w).toNat = w.toNat / 2 ^ 28 % 16 := by
  simp [lcidxField, Nat.shiftRight_eq_div_pow]

theorem llcField_toNat : (llcField w).toNat = w.toNat / 2 ^ 32 := by
  simp only [llcField, BitVec.extractLsb'_toNat, Nat.shiftRight_eq_div_pow]
  omega

theorem opField_eq_iff (v : BitVec 2) : opField w = v ↔ w.toNat % 4 = v.toNat := by
  rw [← BitVec.toNat_inj, opField_toNat]

theorem upperField_eq_zero_iff : upperField w = 0#38 ↔ w.toNat / 4 = 0 := by
  rw [← BitVec.toNat_inj, upperField_toNat]
  rfl

theorem rsvField_eq_zero_iff : rsvField w = 0#2 ↔ w.toNat / 4 % 4 = 0 := by
  rw [← BitVec.toNat_inj, rsvField_toNat]
  rfl

end

/-! ### Decode and encode are inverse to each other (R60, R63, R64) -/

theorem decode_encode (i : Instr) : decode (encode i) = .ok i := by
  cases i with
  | nop => rfl
  | tick => rfl
  | load lx ly lmask lcidx llc =>
    obtain ⟨hop, hrsv⟩ := Laws.EncodedOpcode.load lx ly lmask lcidx llc
    obtain ⟨hx, hy, hmask, hcidx, hlc⟩ := encode_load_fields lx ly lmask lcidx llc
    rw [decode_of_op_load hop, if_pos hrsv, hx, hy, hmask, hcidx, hlc]

theorem encode_of_decode_eq_ok {w : CommandWord} {i : Instr} (h : decode w = .ok i) : encode i = w := by
  obtain hop | hop | hop | hop := opField_cases w
  · rw [decode_of_op_nop hop] at h
    split_ifs at h with hupper
    cases h
    rw [← upperField_append_opField w, hupper, hop]
    rfl
  · rw [decode_of_op_tick hop] at h
    split_ifs at h with hupper
    cases h
    rw [← upperField_append_opField w, hupper, hop]
    rfl
  · rw [decode_of_op_load hop] at h
    split_ifs at h with hrsv
    cases h
    calc encode (.load (lxField w) (lyField w) (lmaskField w) (lcidxField w) (llcField w))
      _ = llcField w ++ lcidxField w ++ lmaskField w ++ lyField w ++ lxField w ++ (rsvField w ++ opField w) := by
        rw [hrsv, hop]; rfl
      _ = w := load_fields_append w
  · rw [decode_of_op_reserved hop] at h
    cases h

/-- A word decodes to a command exactly where it is the command's word. -/
theorem decode_eq_ok_iff {w : CommandWord} {i : Instr} : decode w = .ok i ↔ encode i = w :=
  ⟨encode_of_decode_eq_ok, fun h => h ▸ decode_encode i⟩

/-- Settles O1: the fields of a command's word are its operands. -/
theorem decodeOfEncodeIsTheCommand : Obligations.DecodeOfEncodeIsTheCommand := decode_encode

/-- Settles O2: a word is its fields put together, and decode checks the reserved ones. -/
theorem encodeOfDecodedIsTheWord : Obligations.EncodeOfDecodedIsTheWord :=
  fun _ _ => encode_of_decode_eq_ok

/-- A word is a LOAD exactly where its four low bits are `rsv = 0` over `op = 2`. -/
theorem decode_eq_load_iff (w : CommandWord) :
    (∃ lx ly lmask lcidx llc, decode w = .ok (.load lx ly lmask lcidx llc)) ↔ w.toNat % 16 = 2 := by
  have low : w.toNat % 16 = 2 ↔ opField w = 0b10#2 ∧ rsvField w = 0#2 := by
    rw [opField_eq_iff, rsvField_eq_zero_iff]
    simp only [BitVec.toNat_ofNat]
    omega
  rw [low]
  constructor
  · rintro ⟨lx, ly, lmask, lcidx, llc, h⟩
    rw [← encode_of_decode_eq_ok h]
    exact Laws.EncodedOpcode.load lx ly lmask lcidx llc
  · rintro ⟨hop, hrsv⟩
    exact ⟨_, _, _, _, _, by rw [decode_of_op_load hop, if_pos hrsv]⟩

/-- Settles O5: the masks of NOP and TICK keep every bit, that of LOAD the four low ones. -/
theorem decodeMatchesTheOpcodeTable : Obligations.DecodeMatchesTheOpcodeTable := by
  intro w
  have allBits : w &&& 0xFFFFFFFFFF#40 = w := BitVec.and_allOnes
  have lowBits : w &&& 0x000000000F#40 = 0x0000000002#40 ↔ w.toNat % 16 = 2 := by
    rw [← BitVec.toNat_inj, BitVec.toNat_and]
    exact iff_of_eq (congrArg (· = 2) (Nat.and_two_pow_sub_one_eq_mod w.toNat 4))
  rw [allBits, lowBits]
  exact ⟨decode_eq_ok_iff.trans eq_comm, Machine.decode_eq_tick_iff w, decode_eq_load_iff w⟩

/-- Settles O4: each listed word is evaluated. -/
theorem workedWordsDecode : Obligations.WorkedWordsDecode := ⟨rfl, rfl, rfl, rfl, rfl, rfl, rfl⟩

/-! ### How many words each command has (R64) -/

/-- One word decodes to a given command. -/
theorem card_words_of_command (i : Instr) : Nat.card { w : CommandWord // decode w = .ok i } = 1 := by
  simp only [decode_eq_ok_iff]
  exact Nat.card_unique

theorem encode_injective : Function.Injective encode := fun i j h => by
  have hdecode : decode (encode i) = decode (encode j) := congrArg decode h
  rw [decode_encode, decode_encode] at hdecode
  exact Except.ok.inj hdecode

/-- The word of a LOAD of the given position and mask, colour and counter. -/
def loadWord (a : (Byte × Byte × Byte) × (Nibble × Byte)) : CommandWord :=
  encode (.load a.1.1 a.1.2.1 a.1.2.2 a.2.1 a.2.2)

theorem loadWord_injective : Function.Injective loadWord := by
  rintro ⟨⟨x, y, mask⟩, cidx, lc⟩ ⟨⟨x', y', mask'⟩, cidx', lc'⟩ h
  cases encode_injective h
  rfl

theorem card_bitVec (n : Nat) : Nat.card (BitVec n) = 2 ^ n :=
  (Nat.card_congr BitVec.equivFin.toEquiv).trans (Nat.card_fin (2 ^ n))

theorem card_bitVec_between {n lo hi : Nat} (h : hi < 2 ^ n) :
    Nat.card { b : BitVec n | lo ≤ b.toNat ∧ b.toNat ≤ hi } = hi + 1 - lo := by
  have values : BitVec.toNat '' { b : BitVec n | lo ≤ b.toNat ∧ b.toNat ≤ hi } = Set.Icc lo hi := by
    ext v
    constructor
    · rintro ⟨b, hb, rfl⟩
      exact hb
    · intro hv
      have lt : v < 2 ^ n := Nat.lt_of_le_of_lt hv.2 h
      exact ⟨BitVec.ofNatLT v lt, hv, rfl⟩
  rw [← Nat.card_image_of_injective BitVec.toNat_injective, values, Nat.card_eq_fintype_card, Fintype.card_Icc,
    Nat.card_Icc]

/-- The LOAD words whose colour and counter lie in a set: 2^24 for each such colour and counter. -/
theorem card_load_words (P : Set (Nibble × Byte)) :
    Nat.card { w : CommandWord // ∃ lx ly lmask lcidx llc,
      decode w = .ok (.load lx ly lmask lcidx llc) ∧ (lcidx, llc) ∈ P } = 256 * 256 * 256 * Nat.card P := by
  have words : ∀ w : CommandWord, (∃ lx ly lmask lcidx llc,
      decode w = .ok (.load lx ly lmask lcidx llc) ∧ (lcidx, llc) ∈ P) ↔ w ∈ loadWord '' (Set.univ ×ˢ P) := by
    intro w
    simp only [decode_eq_ok_iff]
    constructor
    · rintro ⟨lx, ly, lmask, lcidx, llc, hw, hP⟩
      exact ⟨((lx, ly, lmask), lcidx, llc), ⟨trivial, hP⟩, hw⟩
    · rintro ⟨⟨⟨lx, ly, lmask⟩, lcidx, llc⟩, ⟨-, hP⟩, hw⟩
      exact ⟨lx, ly, lmask, lcidx, llc, hw, hP⟩
  calc _ = Nat.card (loadWord '' (Set.univ ×ˢ P)) := Nat.card_congr (Equiv.subtypeEquivRight words)
    _ = Nat.card ((Set.univ : Set (Byte × Byte × Byte)) ×ˢ P) := Nat.card_image_of_injective loadWord_injective _
    _ = Nat.card (Byte × Byte × Byte) * Nat.card P := by
      rw [Nat.card_congr (Equiv.Set.prod _ _), Nat.card_prod, Nat.card_univ]
    _ = 256 * 256 * 256 * Nat.card P := by simp only [Nat.card_prod, card_bitVec, Nat.reducePow, Nat.reduceMul]

/-- The colours and counters that LOAD takes (40_commands R85). -/
def legalColourAndCounter : Set (Nibble × Byte) :=
  { c | 1 ≤ c.toNat ∧ c.toNat ≤ 15 } ×ˢ { l | 1 ≤ l.toNat ∧ l.toNat ≤ 63 }

theorem mem_legalColourAndCounter_iff (lcidx : Nibble) (llc : Byte) :
    (lcidx, llc) ∈ legalColourAndCounter ↔ 1 ≤ lcidx.toNat ∧ 1 ≤ llc.toNat ∧ llc.toNat ≤ 63 := by
  have hc : lcidx.toNat < 16 := lcidx.isLt
  simp only [legalColourAndCounter, Set.mem_prod, Set.mem_ofPred_eq]
  omega

theorem card_legalColourAndCounter : Nat.card legalColourAndCounter = 15 * 63 := by
  rw [legalColourAndCounter, Nat.card_congr (Equiv.Set.prod _ _), Nat.card_prod, card_bitVec_between (by decide),
    card_bitVec_between (by decide)]

/-- Settles O6: a command's words are counted by its operands, since its word determines it. -/
theorem commandWordsAreCounted : Obligations.CommandWordsAreCounted := by
  refine ⟨card_words_of_command .nop, card_words_of_command .tick, ?_, ?_, fun w h => ?_, fun w hn ht hl => ?_⟩
  · have all := card_load_words Set.univ
    simp only [Set.mem_univ, and_true] at all
    simp only [all, Nat.card_univ, Nat.card_prod, card_bitVec, Nat.reducePow, Nat.reduceMul]
  · have legal := card_load_words legalColourAndCounter
    simp only [mem_legalColourAndCounter_iff] at legal
    rw [legal, card_legalColourAndCounter]
  · exact decode_of_op_reserved ((opField_eq_iff w _).2 h)
  · cases h : decode w with
    | error r => exact ⟨r, rfl⟩
    | ok i =>
      cases i with
      | nop => exact absurd h hn
      | tick => exact absurd h ht
      | load lx ly lmask lcidx llc => exact absurd ⟨lx, ly, lmask, lcidx, llc, h⟩ hl

end Sys2Proof

/-! What a step makes of a command word (40_commands R80, 60_exceptions R181), and the encodings around it: the
assembler's lines (30_encoding R65, R66), the write records (R67) and the snapshot (R68). -/

namespace Sys2Proof.Machine

open Sys2Proof

/-! ### A step at a refused word (30_encoding R63, 60_exceptions R181) -/

section
variable {s : State} {w : CommandWord}

theorem runWord_of_ok {i : Instr} (h : decode w = .ok i) : runWord w s = exec i s := by
  rw [runWord, h]

theorem runWord_of_error {r : RefusalReason} (h : decode w = .error r) : runWord w s = .next (s.refuse r) := by
  rw [runWord, h]

theorem step_refused_word {rest : List HostInput} {r : RefusalReason} (hm : s.refusal = none)
    (hp : s.pending = .command w :: rest) (h : decode w = .error r) :
    step s = .next { s with refusal := some ⟨r, s.position⟩, pending := rest, position := s.position + 1 } := by
  rw [step_command hm hp, runWord_of_error h, State.refuse_of_none r hm]
  simp only [mapNext, State.takeCommand, hp, List.tail_cons]

end

/-- Settles O13: the word's refusal is recorded, then the word is taken. -/
theorem refusedWordOnlySetsTheMark : Obligations.RefusedWordOnlySetsTheMark :=
  fun _ _ _ _ => step_refused_word

/-- Settles O3: the decoder's tests, read as remainders and quotients of the word's number. -/
theorem decodeReadsEveryField : Obligations.DecodeReadsEveryField := by
  intro w
  refine ⟨fun hop => ?_, fun hop hupper => ?_, fun hop hupper => ?_, fun hop hrsv => ?_, fun h => ?_, fun h => ?_,
    fun h => ?_, fun r s rest hr hm hp => ?_⟩
  · exact decode_of_op_reserved ((opField_eq_iff w _).2 hop)
  · rw [decode_of_op_nop ((opField_eq_iff w _).2 hop), if_neg (mt (upperField_eq_zero_iff w).1 hupper)]
  · rw [decode_of_op_tick ((opField_eq_iff w _).2 hop), if_neg (mt (upperField_eq_zero_iff w).1 hupper)]
  · rw [decode_of_op_load ((opField_eq_iff w _).2 hop), if_neg (mt (rsvField_eq_zero_iff w).1 hrsv)]
  · exact decode_eq_ok_iff.2 (BitVec.eq_of_toNat_eq h.symm)
  · exact decode_eq_ok_iff.2 (BitVec.eq_of_toNat_eq h.symm)
  · have hop : opField w = 0b10#2 := (opField_eq_iff w _).2 (show w.toNat % 4 = 2 by omega)
    have hrsv : rsvField w = 0#2 := (rsvField_eq_zero_iff w).2 (by omega)
    exact ⟨_, _, _, _, _, by rw [decode_of_op_load hop, if_pos hrsv], lxField_toNat w, lyField_toNat w,
      lmaskField_toNat w, lcidxField_toNat w, llcField_toNat w⟩
  · exact ⟨_, step_refused_word hm hp hr, rfl⟩

/-! ### A step at a placed command (log 1) -/

/-- No command touches the host's inputs or their count. -/
theorem exec_keeps_inputs {i : Instr} {s t : State} (h : exec i s = .next t) :
    t.pending = s.pending ∧ t.position = s.position := by
  cases i with
  | nop => rw [exec_nop] at h; cases h; exact ⟨rfl, rfl⟩
  | tick =>
    rw [exec_tick] at h
    cases h
    obtain ⟨_, _, _, _, _, _, e⟩ := s.afterTick_frame
    rw [e]
    exact ⟨rfl, rfl⟩
  | load lx ly lmask lcidx llc =>
    obtain ⟨-, e⟩ | ⟨-, e⟩ := exec_load_cases lx ly lmask lcidx llc s
    · rw [e] at h; cases h; exact ⟨rfl, rfl⟩
    · rw [e] at h; cases h; exact ⟨rfl, rfl⟩

/-- A placed command's word stands first among the inputs. -/
theorem withFetchWord_encode_pending (s : State) (i : Instr) :
    (s.withFetchWord 40 (encode i).toNat).pending = .command (encode i) :: s.pending := by
  have word : BitVec.ofNat 40 ((encode i).toNat % 2 ^ 40) = encode i := by
    rw [Nat.mod_eq_of_lt (encode i).isLt, BitVec.ofNat_toNat, BitVec.setWidth_eq]
  rw [State.withFetchWord, placeCommand, word]

/-- Settles O12: the step decodes the placed word to its command, runs it and takes the word. -/
theorem placedCommandRunsNext : Obligations.PlacedCommandRunsNext := by
  intro s i t hm h
  have hp := withFetchWord_encode_pending s i
  obtain ⟨hpending, hposition⟩ := exec_keeps_inputs h
  have hm' : (s.withFetchWord 40 (encode i).toNat).refusal = none := hm
  rw [step_command hm' hp, runWord_of_ok (decode_encode i), h]
  simp only [mapNext, State.takeCommand, hpending, hp, List.tail_cons, hposition]
  rfl

/-! ### One word over another, as a number -/

/-- The lower part's width shifts the upper part: the form in which R67 and R68 give their layouts. -/
theorem toNat_append_eq_add {m n : Nat} (x : BitVec m) (y : BitVec n) :
    (x ++ y).toNat = x.toNat * 2 ^ n + y.toNat := by
  rw [BitVec.toNat_append, ← Nat.shiftLeft_add_eq_or_of_lt y.isLt, Nat.shiftLeft_eq]

/-! ### The snapshot (R68) -/

/-- Settles O10: the snapshot is the five registers one over the other. -/
theorem snapshotWordHoldsTheRegisters : Obligations.SnapshotWordHoldsTheRegisters := by
  intro s
  simp only [State.snapshot, toNat_append_eq_add]
  omega

/-- Every 36-bit word is the snapshot of the state that holds its fields. -/
theorem exists_snapshot_eq (v : SnapshotWord) : ∃ s : State, s.snapshot = v := by
  refine ⟨State.reset.loadRegisters (v.extractLsb' 0 8) (v.extractLsb' 8 8) (v.extractLsb' 16 8) (v.extractLsb' 24 4)
    (v.extractLsb' 28 8), ?_⟩
  simp (disch := decide) only [State.snapshot, State.loadRegisters_x, State.loadRegisters_y, State.loadRegisters_mask,
    State.loadRegisters_cidx, State.loadRegisters_lc, BitVec.extractLsb'_append_extractLsb'_eq_extractLsb']
  exact BitVec.extractLsb'_eq_self

/-! ### The assembler (R65, R66) -/

section
variable {x y mask color lc : Nat}

theorem assemble_load_of_lt (hx : x < 256) (hy : y < 256) (hmask : mask < 256) (hcolor : color < 16) (hlc : lc < 256) :
    assemble (.load x y mask color lc) = some [encode (.load (BitVec.ofNat 8 x) (BitVec.ofNat 8 y)
      (BitVec.ofNat 8 mask) (BitVec.ofNat 4 color) (BitVec.ofNat 8 lc))] := by
  rw [assemble, assembleLoad, if_pos ⟨hx, hy, hmask, hcolor, hlc⟩, Option.map_some]

theorem assemble_load_of_le (h : 256 ≤ x ∨ 256 ≤ y ∨ 256 ≤ mask ∨ 16 ≤ color ∨ 256 ≤ lc) :
    assemble (.load x y mask color lc) = none := by
  rw [assemble, assembleLoad, if_neg (by omega), Option.map_none]

end

theorem assemble_raw_toNat (v : CommandWord) : assemble (.raw v.toNat) = some [v] := by
  rw [assemble, if_pos v.isLt, BitVec.ofNat_toNat, BitVec.setWidth_eq]

/-- Settles O7: a LOAD line becomes the word of its operands, which decode reads back. -/
theorem assembledLinesDecode : Obligations.AssembledLinesDecode := by
  refine ⟨fun x y mask color lc hx hy hmask hcolor hlc => ?_, fun _ _ _ _ _ => assemble_load_of_le,
    ⟨_, rfl, decode_encode .nop⟩, ⟨_, rfl, decode_encode .tick⟩, assemble_raw_toNat⟩
  exact ⟨_, assemble_load_of_lt hx hy hmask hcolor hlc, _, _, _, _, _, decode_encode _, Nat.mod_eq_of_lt hx,
    Nat.mod_eq_of_lt hy, Nat.mod_eq_of_lt hmask, Nat.mod_eq_of_lt hcolor,
    Nat.mod_eq_of_lt hlc⟩

/-- `(v << 4) | 0b0010` puts the four low bits of a LOAD under the word. -/
theorem restoreWord_eq_append (v : SnapshotWord) : restoreWord v = v ++ 0b0010#4 := by
  apply BitVec.eq_of_toNat_eq
  have fits : v.toNat < 2 ^ 40 := by omega
  have fitsShifted : v.toNat <<< 4 < 2 ^ 40 := by rw [Nat.shiftLeft_eq]; omega
  rw [restoreWord, BitVec.toNat_or, BitVec.toNat_shiftLeft, BitVec.toNat_setWidth, Nat.mod_eq_of_lt fits,
    Nat.mod_eq_of_lt fitsShifted, BitVec.toNat_append]
  rfl

theorem assemble_restore_snapshot (s : State) :
    assemble (.restore s.snapshot.toNat) = some [encode (.load s.x s.y s.mask s.cidx s.lc)] := by
  rw [assemble, if_pos s.snapshot.isLt, BitVec.ofNat_toNat, BitVec.setWidth_eq, restoreWord_eq_append]
  rfl

/-- Settles O8: RESTORE puts a LOAD's `op` and `rsv` under the snapshot, whose fields lie as LOAD's do. -/
theorem pseudoInstructionsExpand : Obligations.PseudoInstructionsExpand := by
  refine ⟨fun n => ⟨_, decode_encode .tick, rfl⟩, rfl, fun _ _ _ _ => rfl, fun s => ?_, exists_snapshot_eq⟩
  exact ⟨_, assemble_restore_snapshot s, toNat_append_eq_add s.snapshot 0b0010#4, decode_encode _⟩

/-! ### The write records (R67) -/

theorem levelBits_toNat (l : Level) : (levelBits l).toNat = levelValue l := by
  cases l <;> rfl

theorem recordOf_toNat (w : GridWrite) :
    (recordOf w).toNat = w.col.toNat + w.row.toNat * 2 ^ 6 + levelValue w.colour.b * 2 ^ 12 +
      levelValue w.colour.g * 2 ^ 14 + levelValue w.colour.r * 2 ^ 16 := by
  simp only [recordOf, toNat_append_eq_add, levelBits_toNat]
  omega

/-- A LOAD emits no record, with legal operands or refused. -/
theorem exec_load_keeps_trace (lx ly lmask : Byte) (lcidx : Nibble) (llc : Byte) (s : State) :
    ∃ t, exec (.load lx ly lmask lcidx llc) s = .next t ∧ t.trace = s.trace := by
  obtain ⟨-, e⟩ | ⟨-, e⟩ := exec_load_cases lx ly lmask lcidx llc s
  · exact ⟨_, e, State.loadRegisters_trace s lx ly lmask lcidx llc⟩
  · exact ⟨_, e, State.refuse_trace s .illegalLoad⟩

/-- Settles O9: a TICK's records are those of its four writes, and stand for these writes. -/
theorem writeRecordsCarryTheWrites : Obligations.WriteRecordsCarryTheWrites := by
  refine ⟨recordOf_toNat, writeOfRecord_recordOf, fun s => ?_, fun s => ⟨s, exec_nop s, rfl⟩, exec_load_keeps_trace⟩
  refine ⟨_, _, _, _, s.afterTick, rfl, exec_tick s, s.afterTick_trace, ?_⟩
  exact s.afterTick_grid.trans
    (congrArg (Memory.gridWrites s.grid) (filterMap_writeOfRecord_map_recordOf s.tickWrites).symm)

end Sys2Proof.Machine

/-! The commands one by one (40_commands R80 to R87): a step at a word that decodes, the reserved bits of NOP and TICK,
LOAD, the whole state a TICK leaves, and what a command's result depends on. -/

namespace Sys2Proof.Machine

open Sys2Proof

/-! ### A step at a word that decodes (R80) -/

/-- Settles O11: the word decodes to its command, which leaves the inputs for the step to move on. -/
theorem stepRunsTheDecodedCommand : Obligations.StepRunsTheDecodedCommand := by
  intro s w rest i hm hp hi
  have hstep : step s = mapNext State.takeCommand (exec i s) := by rw [step_command hm hp, runWord_of_ok hi]
  refine ⟨fun t h => ?_, fun f h => ?_, fun r h => ?_⟩
  · obtain ⟨hpending, hposition⟩ := exec_keeps_inputs h
    rw [hstep, h]
    simp only [mapNext, State.takeCommand, hpending, hp, List.tail_cons, hposition]
  · rw [hstep, h, mapNext]
  · rw [hstep, h, mapNext]

/-! ### The reserved bits of NOP and TICK (R81, R82) -/

section
variable {w : CommandWord}

/-- Only one word with a given `op` has all its upper bits 0. -/
theorem upperField_ne_zero {op : BitVec 2} (hop : opField w = op) (hw : w ≠ 0#38 ++ op) : upperField w ≠ 0#38 := by
  intro hupper
  apply hw
  rw [← hupper, ← hop, upperField_append_opField]

theorem decode_of_nop_reserved_bit (hop : w.toNat % 4 = 0) (hw : w ≠ 0x0000000000#40) :
    decode w = .error .reservedBits := by
  have hop' : opField w = 0b00#2 := (opField_eq_iff w _).2 hop
  rw [decode_of_op_nop hop', if_neg (upperField_ne_zero hop' hw)]

theorem decode_of_tick_reserved_bit (hop : w.toNat % 4 = 1) (hw : w ≠ 0x0000000001#40) :
    decode w = .error .reservedBits := by
  have hop' : opField w = 0b01#2 := (opField_eq_iff w _).2 hop
  rw [decode_of_op_tick hop', if_neg (upperField_ne_zero hop' hw)]

end

/-- Settles O23: NOP answers the state itself, and its word is the only one with its `op` that decodes. -/
theorem nopChangesNothing : Obligations.NopChangesNothing :=
  ⟨exec_nop, decode_encode .nop, fun _ => decode_of_nop_reserved_bit⟩

/-! ### The whole state a TICK leaves (R82, R83) -/

/-- A TICK in one update: the writes issued, the position committed, the counter stepped, and at a jump the position
bumped and the colour stepped. -/
theorem State.afterTick_eq (s : State) :
    s.afterTick = { s with
      x := if s.lc = 1#8 then s.nextX + 1#8 else s.nextX
      y := if s.lc = 1#8 then s.nextY + 1#8 else s.nextY
      mask := if s.lc = 1#8 then s.stepColour.mask else s.mask
      cidx := if s.lc = 1#8 then s.stepColour.cidx else s.cidx
      lc := if s.lc = 1#8 then 63#8 else s.lc - 1#8
      grid := Memory.gridWrites s.grid s.tickWrites
      trace := s.trace ++ [s.tickWrites.map recordOf]
      draws := if s.lc = 1#8 then s.stepColour.draws else s.draws } := by
  rw [State.afterTick, State.countDown_eq, State.commitPosition_lc, State.issueWrites_lc]
  by_cases hj : s.lc = 1#8
  · simp only [if_pos hj, State.stepColour_eq]
    rfl
  · simp only [if_neg hj]
    rfl

section
variable (s : State)

@[simp] theorem State.afterTick_x : s.afterTick.x = if s.lc = 1#8 then s.nextX + 1#8 else s.nextX := by
  rw [State.afterTick_eq]

@[simp] theorem State.afterTick_y : s.afterTick.y = if s.lc = 1#8 then s.nextY + 1#8 else s.nextY := by
  rw [State.afterTick_eq]

@[simp] theorem State.afterTick_lc : s.afterTick.lc = if s.lc = 1#8 then 63#8 else s.lc - 1#8 := by
  rw [State.afterTick_eq]

end

/-- From a colour other than 0 the colour step is R146's decrement, or the wrap with the mask increment (R147, R107). -/
theorem State.stepColour_fields_of_ne_zero {s : State} (h : s.cidx ≠ 0#4) :
    s.stepColour.mask = (if s.cidx = 1#4 then s.mask + 1#8 else s.mask) ∧
    s.stepColour.cidx = (if s.cidx = 1#4 then 15#4 else s.cidx - 1#4) ∧ s.stepColour.draws = s.draws := by
  rw [State.stepColour_of_ne_zero h]
  split
  · exact ⟨rfl, rfl, rfl⟩
  · exact ⟨rfl, rfl, rfl⟩

theorem State.afterTick_of_colour_ne_zero {s : State} (h : s.cidx ≠ 0#4) :
    s.afterTick = { s with
      x := if s.lc = 1#8 then s.nextX + 1#8 else s.nextX
      y := if s.lc = 1#8 then s.nextY + 1#8 else s.nextY
      mask := if s.lc = 1#8 ∧ s.cidx = 1#4 then s.mask + 1#8 else s.mask
      cidx := if s.lc = 1#8 then (if s.cidx = 1#4 then 15#4 else s.cidx - 1#4) else s.cidx
      lc := if s.lc = 1#8 then 63#8 else s.lc - 1#8
      grid := Memory.gridWrites s.grid s.tickWrites
      trace := s.trace ++ [s.tickWrites.map recordOf] } := by
  obtain ⟨hmask, hcidx, hdraws⟩ := State.stepColour_fields_of_ne_zero h
  rw [State.afterTick_eq, hmask, hcidx, hdraws, ite_self, ite_and]

/-! ### The writes of a TICK in numbers (42_symmetry_mapper R121, 43_palette_color_cycler R145) -/

theorem outward_rescale (v : Byte) : outward (rescale v) = BitVec.ofNat 6 (v.toNat / 8 + 32) := by
  rw [← rescale_toNat, ← outward_toNat, BitVec.ofNat_toNat, BitVec.setWidth_eq]

theorem inward_rescale (v : Byte) : inward (rescale v) = BitVec.ofNat 6 (32 - v.toNat / 8) := by
  rw [← rescale_toNat, ← inward_toNat, BitVec.ofNat_toNat, BitVec.setWidth_eq]

theorem State.tickColour_eq (s : State) : s.tickColour = if s.lc.toNat % 2 = 0 then pal 0#4 else pal s.cidx := by
  simp only [State.tickColour, drawColour, drawIndex, blank_eq, decide_eq_true_eq, apply_ite pal]

theorem State.tickWrites_eq (s : State) :
    s.tickWrites =
      [⟨BitVec.ofNat 6 (s.nextX.toNat / 8 + 32), BitVec.ofNat 6 (s.nextY.toNat / 8 + 32), s.tickColour⟩,
        ⟨BitVec.ofNat 6 (32 - s.nextX.toNat / 8), BitVec.ofNat 6 (s.nextY.toNat / 8 + 32), s.tickColour⟩,
        ⟨BitVec.ofNat 6 (32 - s.nextX.toNat / 8), BitVec.ofNat 6 (32 - s.nextY.toNat / 8), s.tickColour⟩,
        ⟨BitVec.ofNat 6 (s.nextX.toNat / 8 + 32), BitVec.ofNat 6 (32 - s.nextY.toNat / 8), s.tickColour⟩] := by
  simp only [State.tickWrites, mirrored, List.map_cons, List.map_nil, outward_rescale, inward_rescale]

/-- Settles O25: the variables of R82's pseudocode are the TICK's stages, and `LC` reaches 0 exactly from 1. -/
theorem tickFollowsThePseudocode : Obligations.TickFollowsThePseudocode := by
  refine ⟨?_, decode_encode .tick, fun _ => decode_of_tick_reserved_bit⟩
  rintro s _ ny _ nx _ _ _ _ ws rfl hny rfl hnx rfl rfl rfl hws rfl hcidx
  have hy : s.nextY = ny := hny.symm
  have hx : s.nextX = nx := by rw [hnx, hny]; rfl
  have hwrites : s.tickWrites = ws := by rw [State.tickWrites_eq, State.tickColour_eq, hx, hy, hws]
  have hjump : s.lc - 1#8 = 0#8 ↔ s.lc = 1#8 := sub_eq_zero
  simp only [exec_tick, State.afterTick_of_colour_ne_zero hcidx, hx, hy, hwrites, hjump]

/-! ### A TICK with `MASK = 0` (R87) -/

theorem maskedStep_zero (v : Byte) : maskedStep v 0#8 = 0#8 := BitVec.and_zero

section
variable {s : State} (h : s.mask = 0#8)
include h

theorem State.nextY_of_mask_zero : s.nextY = s.y := by
  rw [State.nextY, newY, firstStep, h, maskedStep_zero, BitVec.add_zero]

theorem State.nextX_of_mask_zero : s.nextX = s.x := by
  rw [State.nextX, newX, secondStep, h, maskedStep_zero, BitVec.sub_zero]

end

/-- A register bumped by 1 where `LC` is 1, as a number. -/
theorem bump_toNat (lc v : Byte) :
    (if lc = 1#8 then v + 1#8 else v).toNat = if lc.toNat = 1 then (v.toNat + 1) % 256 else v.toNat := by
  have hlc : lc = 1#8 ↔ lc.toNat = 1 := BitVec.toNat_inj.symm
  rw [apply_ite BitVec.toNat, BitVec.toNat_add]
  simp only [hlc]
  rfl

/-- Settles O32: both masked steps are 0, so the committed position is the old one. -/
theorem zeroMaskFreezesThePosition : Obligations.ZeroMaskFreezesThePosition := by
  intro s h
  refine ⟨s.afterTick, exec_tick s, ?_, ?_⟩
  · rw [State.afterTick_x, State.nextX_of_mask_zero h, bump_toNat]
  · rw [State.afterTick_y, State.nextY_of_mask_zero h, bump_toNat]

/-! ### LOAD (R84, R85) -/

section
variable {lx ly lmask : Byte} {lcidx : Nibble} {llc : Byte}

theorem exec_load_of_legal (s : State) (hc : 1 ≤ lcidx.toNat) (h1 : 1 ≤ llc.toNat) (h63 : llc.toNat ≤ 63) :
    exec (.load lx ly lmask lcidx llc) s = .next (s.loadRegisters lx ly lmask lcidx llc) := by
  obtain ⟨-, e⟩ | ⟨illegal, -⟩ := exec_load_cases lx ly lmask lcidx llc s
  · exact e
  · omega

theorem exec_load_of_illegal (s : State) (h : lcidx.toNat = 0 ∨ llc.toNat = 0 ∨ 63 < llc.toNat) :
    exec (.load lx ly lmask lcidx llc) s = .next (s.refuse .illegalLoad) := by
  obtain ⟨legal, -⟩ | ⟨-, e⟩ := exec_load_cases lx ly lmask lcidx llc s
  · omega
  · exact e

end

theorem State.applyReset_of_legal (s : State) (sx sy smask : Byte) {scolor : Nibble} (h : 1 ≤ scolor.toNat) :
    s.applyReset sx sy smask scolor = s.loadRegisters sx sy smask scolor 63#8 := by
  rw [State.applyReset, if_pos ((seedLegal_iff scolor).2 h)]

/-- A run whose mark is that of a state with a refusal recorded goes no further. -/
theorem step_refused_of_refuse {s u : State} {r : RefusalReason} (h : u.refusal = (s.refuse r).refusal) :
    ∃ q, step u = .refused q :=
  ⟨_, step_of_mark (h.trans (State.refuse_refusal s r))⟩

/-- Settles O24: LOAD's two cases; 63 is the counter reset loads, and 1 the counter that a TICK jumps from. -/
theorem loadSetsAllRegistersOrIsRefused : Obligations.LoadSetsAllRegistersOrIsRefused := by
  refine ⟨fun s lx ly lmask lcidx llc => ⟨?_, ?_, ?_, ?_, ?_⟩, fun w => (decode_eq_load_iff w).symm, rfl⟩
  · exact exec_load_of_legal s
  · intro illegal hm
    rw [exec_load_of_illegal s illegal, State.refuse_of_none .illegalLoad hm]
  · intro illegal t u ht hu
    rw [exec_load_of_illegal s illegal] at ht
    cases ht
    exact step_refused_of_refuse hu
  · rintro hc rfl
    rw [exec_load_of_legal s hc (by decide) (by decide), State.applyReset_of_legal s lx ly lmask hc]
  · rintro hc rfl
    refine ⟨_, _, exec_load_of_legal s hc (by decide) (by decide), exec_tick _, ?_, ?_, ?_⟩
    · rw [State.afterTick_lc, State.loadRegisters_lc, if_pos rfl]
    · rw [State.afterTick_x, State.loadRegisters_lc, if_pos rfl]
    · rw [State.afterTick_y, State.loadRegisters_lc, if_pos rfl]

/-! ### What a command's result depends on (R86) -/

/-- The registers, the grid and the draws of `s` in the run of `u`: its mark, stream, position and records. -/
def State.inRunOf (s u : State) : State :=
  { s with refusal := u.refusal, pending := u.pending, position := u.position, trace := u.trace }

/-- States that agree in the registers, the grid and the draws differ by their run alone. -/
theorem State.eq_inRunOf {s s' : State} (hx : s.x = s'.x) (hy : s.y = s'.y) (hmask : s.mask = s'.mask)
    (hcidx : s.cidx = s'.cidx) (hlc : s.lc = s'.lc) (hgrid : s.grid = s'.grid) (hdraws : s.draws = s'.draws) :
    s' = s.inRunOf s' := by
  rw [State.inRunOf, hx, hy, hmask, hcidx, hlc, hgrid, hdraws]

/-- A TICK in another run: the same registers and grid, and the same records added to that run's. -/
theorem State.afterTick_inRunOf (s u : State) :
    (s.inRunOf u).afterTick =
      s.afterTick.inRunOf { u with trace := u.trace ++ [s.tickWrites.map recordOf] } := by
  simp only [State.afterTick_eq, State.stepColour_eq]
  rfl

/-- A command does the same in another run: `v` is what becomes of that run. -/
theorem exec_inRunOf (i : Instr) (s u : State) :
    ∃ t v recs, exec i s = .next t ∧ exec i (s.inRunOf u) = .next (t.inRunOf v) ∧
      t.trace = s.trace ++ recs ∧ v.trace = u.trace ++ recs := by
  cases i with
  | nop => exact ⟨s, u, [], exec_nop s, exec_nop _, (List.append_nil _).symm, (List.append_nil _).symm⟩
  | tick =>
    have hrun := (exec_tick (s.inRunOf u)).trans (congrArg Host.Outcome.next (State.afterTick_inRunOf s u))
    exact ⟨_, _, _, exec_tick s, hrun, s.afterTick_trace, rfl⟩
  | load lx ly lmask lcidx llc =>
    by_cases legal : 1 ≤ lcidx.toNat ∧ 1 ≤ llc.toNat ∧ llc.toNat ≤ 63
    · obtain ⟨hc, h1, h63⟩ := legal
      exact ⟨_, u, [], exec_load_of_legal s hc h1 h63, exec_load_of_legal _ hc h1 h63, (List.append_nil _).symm,
        (List.append_nil _).symm⟩
    · have illegal : lcidx.toNat = 0 ∨ llc.toNat = 0 ∨ 63 < llc.toNat := by omega
      exact ⟨_, u.refuse .illegalLoad, [], exec_load_of_illegal s illegal, exec_load_of_illegal _ illegal,
        (List.append_nil _).symm, (List.append_nil _).symm⟩

/-- Settles O22: the second state is the first in another run. -/
theorem resultDependsOnRegistersAlone : Obligations.ResultDependsOnRegistersAlone := by
  intro i s s' hx hy hmask hcidx hlc hgrid hdraws
  obtain ⟨t, v, recs, ht, ht', htrace, hvtrace⟩ := exec_inRunOf i s s'
  rw [← State.eq_inRunOf hx hy hmask hcidx hlc hgrid hdraws] at ht'
  exact ⟨t, t.inRunOf v, recs, ht, ht', rfl, rfl, rfl, rfl, rfl, rfl, htrace, hvtrace⟩

end Sys2Proof.Machine

/-! The phase accumulator (41_phase_accumulator): its stages as numbers, the position a TICK leaves, and `MASK` over a
run of TICKs; and that no command stops (R105, 60_exceptions R180). -/

namespace Sys2Proof.Machine

open Sys2Proof

/-! ### The stages in numbers (R100 to R103) -/

theorem maskedStep_toNat (v mask : Byte) : (maskedStep v mask).toNat = (v.toNat / 4) &&& mask.toNat := by
  rw [maskedStep, BitVec.toNat_and, BitVec.toNat_ushiftRight, Nat.shiftRight_eq_div_pow]

/-- Settles O30: the shift leaves a number below 64, and the AND with the mask cannot raise it. -/
theorem maskedStepsStayBelow64 : Obligations.MaskedStepsStayBelow64 := by
  refine fun v mask => ⟨?_, fun hv => ?_, ?_⟩
  · calc (maskedStep v mask).toNat
      _ = v.toNat / 4 &&& mask.toNat := maskedStep_toNat v mask
      _ ≤ v.toNat / 4 := Nat.and_le_left
      _ ≤ 63 := by omega
  · apply BitVec.eq_of_toNat_eq
    rw [maskedStep_toNat, Nat.div_eq_of_lt hv, Nat.zero_and]
    rfl
  · rintro rfl
    exact maskedStep_zero v

theorem State.nextY_toNat (s : State) : s.nextY.toNat = (s.y.toNat + (s.x.toNat / 4 &&& s.mask.toNat)) % 256 := by
  rw [State.nextY, newY, firstStep, BitVec.toNat_add, maskedStep_toNat]

theorem State.nextX_toNat (s : State) :
    s.nextX.toNat = (s.x.toNat + 256 - (s.nextY.toNat / 4 &&& s.mask.toNat)) % 256 := by
  have step_le : s.nextY.toNat / 4 &&& s.mask.toNat ≤ 256 := by
    have := Nat.and_le_left (n := s.nextY.toNat / 4) (m := s.mask.toNat)
    omega
  rw [State.nextX, newX, secondStep, BitVec.toNat_sub, maskedStep_toNat, ← State.nextY]
  omega

/-! ### The position a TICK leaves (R104, R106, R109) -/

@[simp] theorem State.afterTick_mask (s : State) :
    s.afterTick.mask = if s.lc = 1#8 then s.stepColour.mask else s.mask := by
  rw [State.afterTick_eq]

/-- Settles O28: the position committed is the stages' numbers, bumped at a jump; only a jump reaches `MASK`. -/
theorem tickMovesThePositionModulo256 : Obligations.TickMovesThePositionModulo256 := by
  rintro s _ ny _ nx rfl hny rfl hnx
  have hy : s.nextY.toNat = ny := s.nextY_toNat.trans hny.symm
  have hx : s.nextX.toNat = nx := by rw [State.nextX_toNat, hy, hnx]
  refine ⟨s.afterTick, exec_tick s, fun noJump => ?_, fun atJump => ?_⟩
  · have hlc : s.lc ≠ 1#8 := fun h => noJump (congrArg BitVec.toNat h)
    rw [State.afterTick_x, State.afterTick_y, State.afterTick_mask, bump_toNat, bump_toNat, if_neg noJump,
      if_neg noJump, if_neg hlc]
    exact ⟨hx, hy, rfl⟩
  · rw [State.afterTick_x, State.afterTick_y, bump_toNat, bump_toNat, if_pos atJump, if_pos atJump, hx, hy]
    exact ⟨rfl, rfl⟩

/-- Taking the bump back off a bumped register. -/
theorem bump_sub_bump (jumps : Prop) [Decidable jumps] (v : Byte) :
    (if jumps then v + 1#8 else v) - (if jumps then 1#8 else 0#8) = v := by
  split
  · exact add_sub_cancel_right v 1#8
  · exact BitVec.sub_zero v

/-- Settles O29: without the bump, a TICK commits `nextX` and `nextY`, which are the two expressions. -/
theorem positionUpdateReadsOnlyThePhase : Obligations.PositionUpdateReadsOnlyThePhase := by
  refine fun s => ⟨s.afterTick, exec_tick s, ?_, ?_⟩
  · rw [State.afterTick_x, bump_sub_bump]
    rfl
  · rw [State.afterTick_y, bump_sub_bump]
    rfl

/-! ### No command stops (R105, 60_exceptions R180) -/

theorem exec_answers (i : Instr) (s : State) : ∃ t, exec i s = .next t := by
  cases i with
  | nop => exact ⟨s, exec_nop s⟩
  | tick => exact ⟨s.afterTick, exec_tick s⟩
  | load lx ly lmask lcidx llc =>
    obtain ⟨-, e⟩ | ⟨-, e⟩ := exec_load_cases lx ly lmask lcidx llc s
    · exact ⟨_, e⟩
    · exact ⟨_, e⟩

theorem runWord_answers (w : CommandWord) (s : State) : ∃ t, runWord w s = .next t := by
  obtain ⟨i, -, e⟩ | ⟨r, -, e⟩ := runWord_cases w s
  · rw [e]
    exact exec_answers i s
  · exact ⟨_, e⟩

/-- A step stops only where a refusal is already recorded. -/
theorem step_answers {s : State} (hm : s.refusal = none) : ∃ t, step s = .next t := by
  cases hp : s.pending with
  | nil => exact ⟨s, step_idle hm hp⟩
  | cons input rest =>
    cases input with
    | reset sx sy smask scolor => exact ⟨_, step_reset hm hp⟩
    | command w =>
      obtain ⟨u, hu⟩ := runWord_answers w s
      exact ⟨u.takeCommand, by rw [step_command hm hp, hu, mapNext]⟩

/-- Settles O21: each command answers, and leaves the inputs to the step that took it. -/
theorem everyCommandAnswersANextState : Obligations.EveryCommandAnswersANextState := by
  refine ⟨fun i s => ?_, fun s => step_answers⟩
  obtain ⟨t, ht⟩ := exec_answers i s
  exact ⟨t, ht, exec_keeps_inputs ht⟩

/-! ### A run of TICKs -/

theorem tickInputs_succ_append (k : Nat) (rest : List HostInput) :
    tickInputs (k + 1) ++ rest = tickInputs k ++ .command 0x0000000001#40 :: rest := by
  rw [tickInputs, List.replicate_succ', List.append_assoc]
  rfl

/-- Induction over a run of TICKs: what holds at its start, and goes from each TICK to the next, holds at its end. -/
theorem run_ticks {P : Nat → State → Prop} (hP : ∀ j t, P j t → P (j + 1) t.afterTick.takeCommand) {s : State}
    (hs : P 0 s) (hm : s.refusal = none) {k : Nat} {rest : List HostInput} (hp : s.pending = tickInputs k ++ rest) :
    ∃ t, run k s = .next t ∧ t.refusal = none ∧ t.pending = rest ∧ P k t := by
  induction k generalizing rest with
  | zero => exact ⟨s, run_zero s, hm, hp, hs⟩
  | succ k ih =>
    obtain ⟨t, hrun, htm, htp, ht⟩ := ih (hp.trans (tickInputs_succ_append k rest))
    have hstep : step t = .next t.afterTick.takeCommand := step_tick htm htp
    have hpending : t.afterTick.pending = t.pending := (exec_keeps_inputs (exec_tick t)).1
    refine ⟨t.afterTick.takeCommand, ?_, ?_, ?_, hP k t ht⟩
    · rw [run_add 1 hrun, run_of_next 0 hstep, run_zero]
    · rw [State.takeCommand_refusal, State.afterTick_refusal, htm]
    · rw [State.takeCommand_pending, hpending, htp, List.tail_cons]

/-! ### The cycle of `LC`, `CIDX` and `MASK` (R108, 43_palette_color_cycler R148, 44_update_sequencer R163) -/

/-- The counters `n` TICKs after `LC` was 63, `CIDX` was 15 and `MASK` was `m`: a jump comes every 63 TICKs, and a
colour wrap every 15 jumps, that is, every 945 TICKs. -/
structure State.InCycle (m : Byte) (n : Nat) (s : State) : Prop where
  lc : s.lc.toNat = 63 - n % 63
  cidx : s.cidx.toNat = 15 - n / 63 % 15
  mask : s.mask = m + BitVec.ofNat 8 (n / 945)

namespace State.InCycle

variable {m : Byte} {n : Nat} {s : State}

/-- With `LC` at 63 and colour `c`, the cycle is `15 - c` jumps old. -/
theorem of_lc_eq_63 (hlc : s.lc.toNat = 63) (hc : 1 ≤ s.cidx.toNat) :
    s.InCycle s.mask (63 * (15 - s.cidx.toNat)) where
  lc := by omega
  cidx := by omega
  mask := by
    have noWrap : 63 * (15 - s.cidx.toNat) / 945 = 0 := by omega
    rw [noWrap]
    exact (BitVec.add_zero s.mask).symm

theorem cidx_ne_zero (h : s.InCycle m n) : s.cidx ≠ 0#4 := by
  have hcidx := h.cidx
  bv_omega

/-- No jump: `LC` steps, and the colour and `MASK` are held. -/
theorem afterTick_of_no_jump (h : s.InCycle m n) (noJump : s.lc ≠ 1#8) : s.afterTick.InCycle m (n + 1) := by
  obtain ⟨hlc, hcidx, hmask⟩ := h
  have sameHold : (n + 1) / 63 = n / 63 := by bv_omega
  have sameCycle : (n + 1) / 945 = n / 945 := by omega
  rw [State.afterTick_eq]
  simp only [if_neg noJump]
  exact ⟨by bv_omega, by rw [hcidx, sameHold], by rw [hmask, sameCycle]⟩

/-- A jump: the next hold begins, and with the colour wrap the next cycle, which `MASK` counts. -/
theorem afterTick_of_jump (h : s.InCycle m n) (jumps : s.lc = 1#8) : s.afterTick.InCycle m (n + 1) := by
  have hcolour := h.cidx_ne_zero
  obtain ⟨hlc, hcidx, hmask⟩ := h
  have lastOfHold : n % 63 = 62 := by bv_omega
  have nextHold : (n + 1) / 63 = n / 63 + 1 := by omega
  rw [State.afterTick_of_colour_ne_zero hcolour]
  by_cases wraps : s.cidx = 1#4
  · have lastOfCycle : n / 63 % 15 = 14 := by bv_omega
    have nextCycle : (n + 1) / 945 = n / 945 + 1 := by omega
    simp only [if_pos jumps, if_pos wraps, if_pos (And.intro jumps wraps)]
    refine ⟨show (63#8).toNat = 63 - (n + 1) % 63 by bv_omega,
      show (15#4).toNat = 15 - (n + 1) / 63 % 15 by bv_omega, ?_⟩
    rw [hmask, nextCycle, BitVec.ofNat_add, BitVec.add_assoc]
  · have withinCycle : n / 63 % 15 < 14 := by bv_omega
    have sameCycle : (n + 1) / 945 = n / 945 := by omega
    have notBoth : ¬(s.lc = 1#8 ∧ s.cidx = 1#4) := fun both => wraps both.2
    simp only [if_pos jumps, if_neg wraps, if_neg notBoth]
    refine ⟨show (63#8).toNat = 63 - (n + 1) % 63 by bv_omega, ?_, by rw [hmask, sameCycle]⟩
    rw [nextHold]
    bv_omega

theorem afterTick (h : s.InCycle m n) : s.afterTick.InCycle m (n + 1) := by
  by_cases jumps : s.lc = 1#8
  · exact h.afterTick_of_jump jumps
  · exact h.afterTick_of_no_jump jumps

theorem takeCommand (h : s.InCycle m n) : s.takeCommand.InCycle m n := ⟨h.lc, h.cidx, h.mask⟩

end State.InCycle

/-- After `k` TICKs from `LC = 63` the cycle is `k` TICKs older. -/
theorem run_ticks_inCycle {s : State} {k : Nat} {rest : List HostInput} (hm : s.refusal = none)
    (hlc : s.lc.toNat = 63) (hc : 1 ≤ s.cidx.toNat) (hp : s.pending = tickInputs k ++ rest) :
    ∃ t, run k s = .next t ∧ t.refusal = none ∧ t.pending = rest ∧
      t.InCycle s.mask (k + 63 * (15 - s.cidx.toNat)) := by
  refine run_ticks (P := fun j t => t.InCycle s.mask (j + 63 * (15 - s.cidx.toNat))) (fun j t h => ?_) ?_ hm hp
  · rw [Nat.add_right_comm]
    exact h.afterTick.takeCommand
  · rw [Nat.zero_add]
    exact State.InCycle.of_lc_eq_63 hlc hc

/-- Settles O49: `MASK` counts the cycles of 945 TICKs, the first of which is `63 * (15 - c)` TICKs old at the start. -/
theorem maskIncrementsEvery945Ticks : Obligations.MaskIncrementsEvery945Ticks := by
  intro s k rest hm hlc hc hp
  obtain ⟨t, hrun, -, -, hcycle⟩ := run_ticks_inCycle hm hlc hc hp
  exact ⟨t, hrun, hcycle.mask⟩

end Sys2Proof.Machine

/-! The symmetry mapper (42_symmetry_mapper): the mirrored coordinates as numbers, where the two mirror images of a
coordinate meet, and the four cells of a TICK as the set that the reflections about 32 carry to itself. -/

namespace Sys2Proof.Machine

open Sys2Proof

/-! ### The mirrored coordinates (R121, R123) -/

theorem outward_eq_append (g : BitVec 5) : outward g = 1#1 ++ g := by
  apply BitVec.eq_of_toNat_eq
  rw [outward_toNat, toNat_append_eq_add]
  exact Nat.add_comm g.toNat 32

theorem inward_toNat_add (g : BitVec 5) : (inward g).toNat + g.toNat = 32 := by
  rw [inward_toNat]
  omega

theorem inward_toNat_eq_sub_outward (g : BitVec 5) : (inward g).toNat = 64 - (outward g).toNat := by
  rw [inward_toNat, outward_toNat]
  omega

/-- The two images of a coordinate meet on the axis alone. -/
theorem outward_eq_inward_iff (g : BitVec 5) : outward g = inward g ↔ g = 0#5 := by
  have ho := outward_toNat g
  have hi := inward_toNat_add g
  bv_omega

theorem rescale_eq_zero_iff (v : Byte) : rescale v = 0#5 ↔ v.toNat / 8 = 0 := by
  rw [← rescale_toNat]
  exact BitVec.toNat_inj.symm

/-! ### The commands' writes (R121, 44_update_sequencer R164) -/

/-- A LOAD issues no write, with legal operands or refused. -/
theorem exec_load_keeps_trace_and_grid (s : State) (lx ly lmask : Byte) (lcidx : Nibble) (llc : Byte) :
    ∃ t, exec (.load lx ly lmask lcidx llc) s = .next t ∧ t.trace = s.trace ∧ t.grid = s.grid := by
  obtain ⟨-, e⟩ | ⟨-, e⟩ := exec_load_cases lx ly lmask lcidx llc s
  · exact ⟨_, e, State.loadRegisters_trace s lx ly lmask lcidx llc, State.loadRegisters_grid s lx ly lmask lcidx llc⟩
  · exact ⟨_, e, State.refuse_trace s .illegalLoad, State.refuse_grid s .illegalLoad⟩

/-- Settles O33: a TICK's records and grid are those of its four writes, whose coordinates are the mapper's. -/
theorem tickIssuesFourMirroredWrites : Obligations.TickIssuesFourMirroredWrites := by
  refine ⟨?_, fun s => ⟨s, exec_nop s, rfl, rfl⟩, exec_load_keeps_trace_and_grid⟩
  rintro s gx gy rfl rfl
  rw [← rescale_toNat, ← rescale_toNat]
  refine ⟨_, _, _, _, s.afterTick, exec_tick s, s.afterTick_trace, s.afterTick_grid, ?_⟩
  exact ⟨outward_toNat _, outward_toNat _, inward_toNat_add _, outward_toNat _, inward_toNat_add _, inward_toNat_add _,
    outward_toNat _, inward_toNat_add _, rfl, rfl, rfl, rfl⟩

/-- Settles O34: no write names column 0 or row 0 (`State.tickWrites_off_edge`), and 6 bits end at 63. -/
theorem mirroredCoordinatesAvoidTheEdge : Obligations.MirroredCoordinatesAvoidTheEdge := by
  refine ⟨fun g => ?_, fun s w hw => ?_⟩
  · have ho := outward_toNat g
    have hi := inward_toNat g
    exact ⟨ho, hi, outward_eq_append g, by omega, by omega, by omega, by omega⟩
  · obtain ⟨hcol, hrow⟩ := s.tickWrites_off_edge w hw
    bv_omega

/-! ### Coincident targets (R124) -/

/-- A TICK's writes are the product of two columns, two rows and one colour. -/
theorem State.mem_tickWrites_iff {s : State} {w : GridWrite} :
    w ∈ s.tickWrites ↔
      (w.col = outward (rescale s.nextX) ∨ w.col = inward (rescale s.nextX)) ∧
      (w.row = outward (rescale s.nextY) ∨ w.row = inward (rescale s.nextY)) ∧ w.colour = s.tickColour := by
  obtain ⟨col, row, colour⟩ := w
  simp only [State.tickWrites, mirrored, List.map_cons, List.map_nil, List.mem_cons, List.not_mem_nil, or_false,
    GridWrite.mk.injEq]
  tauto

/-- The cells that a TICK's writes name are the mapper's. -/
theorem State.tickWrites_cells (s : State) :
    (s.tickWrites.map fun w => (w.col, w.row)) = mirrored (rescale s.nextX) (rescale s.nextY) := rfl

/-- Off the axes the two columns differ and the two rows differ, so each two of the four cells differ in one or both. -/
theorem mirrored_nodup {gx gy : BitVec 5} (hx : gx ≠ 0#5) (hy : gy ≠ 0#5) : (mirrored gx gy).Nodup := by
  have hcol : outward gx ≠ inward gx := mt (outward_eq_inward_iff gx).1 hx
  have hrow : outward gy ≠ inward gy := mt (outward_eq_inward_iff gy).1 hy
  simp [mirrored, hcol, hrow, hcol.symm]

/-- Settles O35: on an axis both images of 0 are 32; off the axes the four cells are `mirrored_nodup`. -/
theorem targetsCoincideOnlyOnTheAxes : Obligations.TargetsCoincideOnlyOnTheAxes := by
  rintro s gx gy rfl rfl
  simp only [ne_eq, ← rescale_eq_zero_iff, State.tickWrites_cells]
  refine ⟨_, _, _, _, rfl, fun hx => ?_, fun hy => ?_, fun hx hy w hw => ?_, mirrored_nodup⟩
  · rw [hx]
    exact ⟨rfl, rfl, rfl, rfl⟩
  · rw [hy]
    exact ⟨rfl, rfl, rfl, rfl⟩
  · obtain ⟨hcol, hrow, -⟩ := State.mem_tickWrites_iff.1 hw
    rw [hx] at hcol
    rw [hy] at hrow
    exact ⟨or_self_iff.1 hcol, or_self_iff.1 hrow⟩

/-! ### The reflections about 32 (R125) -/

/-- Reflection of a coordinate about 32, `64 - v`: in 6 bits, the negation. -/
theorem neg_toNat_of_ne_zero {v : BitVec 6} (h : v ≠ 0#6) : (-v).toNat = 64 - v.toNat := by
  bv_omega

theorem neg_outward (g : BitVec 5) : -outward g = inward g := by
  simp only [outward, inward]
  bv_omega

theorem neg_inward (g : BitVec 5) : -inward g = outward g := by
  rw [← neg_outward, neg_neg]

/-- The two images of a coordinate stay the two images under reflection. -/
theorem neg_eq_outward_or_inward {v : BitVec 6} {g : BitVec 5} (h : v = outward g ∨ v = inward g) :
    -v = outward g ∨ -v = inward g := by
  obtain rfl | rfl := h
  · exact .inr (neg_outward g)
  · exact .inl (neg_inward g)

/-- The mirror image of a write in column 32. -/
def GridWrite.reflectColumn (w : GridWrite) : GridWrite := { w with col := -w.col }

/-- The mirror image of a write in row 32. -/
def GridWrite.reflectRow (w : GridWrite) : GridWrite := { w with row := -w.row }

section
variable {s : State} {w : GridWrite} (hw : w ∈ s.tickWrites)
include hw

theorem State.reflectColumn_mem_tickWrites : w.reflectColumn ∈ s.tickWrites := by
  obtain ⟨hcol, hrow, hcolour⟩ := State.mem_tickWrites_iff.1 hw
  exact State.mem_tickWrites_iff.2 ⟨neg_eq_outward_or_inward hcol, hrow, hcolour⟩

theorem State.reflectRow_mem_tickWrites : w.reflectRow ∈ s.tickWrites := by
  obtain ⟨hcol, hrow, hcolour⟩ := State.mem_tickWrites_iff.1 hw
  exact State.mem_tickWrites_iff.2 ⟨hcol, neg_eq_outward_or_inward hrow, hcolour⟩

theorem State.reflectColumn_col_toNat : w.reflectColumn.col.toNat = 64 - w.col.toNat :=
  neg_toNat_of_ne_zero (s.tickWrites_off_edge w hw).1

theorem State.reflectRow_row_toNat : w.reflectRow.row.toNat = 64 - w.row.toNat :=
  neg_toNat_of_ne_zero (s.tickWrites_off_edge w hw).2

end

/-- Settles O36: the inward images are the reflections of the outward ones, and both reflections keep the writes. -/
theorem writesAreFourFoldSymmetric : Obligations.WritesAreFourFoldSymmetric := by
  rintro s c r rfl rfl
  refine ⟨?_, fun w hw => ?_⟩
  · simp only [State.tickWrites, mirrored, List.map_cons, List.map_nil, inward_toNat_eq_sub_outward, outward_toNat,
      rescale_toNat]
  · have hwc : w.reflectColumn ∈ s.tickWrites := State.reflectColumn_mem_tickWrites hw
    have hcol : w.reflectColumn.col.toNat = 64 - w.col.toNat := State.reflectColumn_col_toNat hw
    have hrow : w.reflectRow.row.toNat = 64 - w.row.toNat := State.reflectRow_row_toNat hw
    exact ⟨⟨w.reflectColumn, hwc, hcol, rfl, rfl⟩,
      ⟨w.reflectRow, State.reflectRow_mem_tickWrites hw, rfl, hrow, rfl⟩,
      ⟨w.reflectColumn.reflectRow, State.reflectRow_mem_tickWrites hwc, hcol, hrow, rfl⟩,
      s.tickWrites_colour w hw⟩

end Sys2Proof.Machine

/-! The palette and the colour cycler (43_palette_color_cycler): the entries R141 fixes, the colour a TICK draws, and the
steps of `LC`, `CIDX` and `MASK`, for one TICK and over a run of TICKs. -/

namespace Sys2Proof.Machine

open Sys2Proof

/-! ### The palettes (R141, R142) -/

/-- Each channel of a hue is off or at the one level, and at least one is at that level. -/
theorem hueAt_channels (h : Hue) (l : Level) :
    ((hueAt h l).r = .off ∨ (hueAt h l).r = l) ∧ ((hueAt h l).g = .off ∨ (hueAt h l).g = l) ∧
    ((hueAt h l).b = .off ∨ (hueAt h l).b = l) ∧ ((hueAt h l).r = l ∨ (hueAt h l).g = l ∨ (hueAt h l).b = l) := by
  cases h <;> simp only [hueAt, true_or, or_true, and_self]

theorem paletteOf_meets (hue : Nibble → Hue) : PaletteMeets (paletteOf hue) where
  black0 := paletteOf_zero hue
  black8 := paletteOf_eight hue
  white15 := paletteOf_fifteen hue
  dim i h1 h7 := by
    obtain ⟨hr, hg, hb, lit⟩ := hueAt_channels (hue i) .half
    rw [paletteOf_dim hue h1 h7]
    exact ⟨level_ne_full_iff.2 hr, level_ne_full_iff.2 hg, level_ne_full_iff.2 hb, lit⟩
  bright i h9 h14 := by
    obtain ⟨hr, hg, hb, lit⟩ := hueAt_channels (hue i) .full
    rw [paletteOf_bright hue h9 h14]
    exact ⟨level_ne_half_iff.2 hr, level_ne_half_iff.2 hg, level_ne_half_iff.2 hb, lit⟩

/-- Settles O37: each entry outside black and white is a hue at the level of its range. -/
theorem paletteMeetsItsConstraints : Obligations.PaletteMeetsItsConstraints :=
  ⟨paletteOf_meets, paletteOf_meets Config.hue⟩

/-- The hue that the low three bits of an index name in R142's table; no hue is read at indices 0 and 8. -/
def defaultHue (i : Nibble) : Hue :=
  match i.toNat % 8 with
  | 1 => .red
  | 2 => .green
  | 3 => .yellow
  | 4 => .blue
  | 5 => .magenta
  | 6 => .cyan
  | _ => .white

/-- R142's table is the palette of one assignment of hues: its sixteen entries, compared. -/
theorem paletteOf_defaultHue : paletteOf defaultHue = defaultPalette := by
  have entries : ∀ i : Nibble, paletteOf defaultHue i = defaultPalette i := by decide
  exact funext entries

/-- Settles O39: the default palette is one that the parameter gives, and each of those meets R141. -/
theorem defaultPaletteIsAllowed : Obligations.DefaultPaletteIsAllowed :=
  ⟨paletteOf_defaultHue ▸ paletteOf_meets defaultHue, rfl, rfl, rfl, rfl⟩

/-! ### The colour a TICK draws (R143 to R145) -/

section
variable {s : State}

theorem State.tickColour_of_even (h : s.lc.toNat % 2 = 0) : s.tickColour = black := by
  rw [State.tickColour_eq, if_pos h, pal, paletteOf_zero]

theorem State.tickColour_of_odd (h : s.lc.toNat % 2 = 1) : s.tickColour = pal s.cidx := by
  have notEven : ¬s.lc.toNat % 2 = 0 := by omega
  rw [State.tickColour_eq, if_neg notEven]

/-- Entry 8 is black as entry 0 is, so the parity does not matter. -/
theorem State.tickColour_of_index_eight (h : s.cidx = 8#4) : s.tickColour = black := by
  rw [State.tickColour_eq, h, pal, pal, paletteOf_zero, paletteOf_eight, ite_self]

/-- The cell that a write of a TICK names holds the drawn colour after it. -/
theorem State.afterTick_cell_of_write {w : GridWrite} (hw : w ∈ s.tickWrites) :
    s.afterTick.cell w.col w.row = some s.tickColour := by
  rw [State.afterTick_cell, if_pos ⟨w, hw, rfl, rfl⟩]

end

/-- Settles O40: the four writes share the TICK's colour, which the parity of `LC` decides. -/
theorem evenCounterDrawsBlack : Obligations.EvenCounterDrawsBlack := by
  refine fun s => ⟨s.afterTick, s.tickWrites, exec_tick s, s.afterTick_trace, s.tickWrites_length, ?_, ?_⟩
  · exact fun even w hw => (s.tickWrites_colour w hw).trans (State.tickColour_of_even even)
  · exact fun odd w hw => (s.tickWrites_colour w hw).trans (State.tickColour_of_odd odd)

/-- Settles O41: the TICK's one colour is black, in its writes and in the cells they name. -/
theorem indexEightDrawsBlack : Obligations.IndexEightDrawsBlack := by
  intro s h
  have hblack : s.tickColour = black := State.tickColour_of_index_eight h
  refine ⟨s.afterTick, s.tickWrites, exec_tick s, s.afterTick_trace, s.tickWrites_length, fun w hw => ⟨?_, ?_⟩⟩
  · exact (s.tickWrites_colour w hw).trans hblack
  · exact (State.afterTick_cell_of_write hw).trans (congrArg some hblack)

/-! ### The counter and the colour over one TICK (R146, R147, R149, 44_update_sequencer R160) -/

/-- A TICK jumps where `LC` is 1 (44_update_sequencer R161): as a word, and as a number. -/
theorem State.lc_eq_one_iff (s : State) : s.lc = 1#8 ↔ s.lc.toNat = 1 := BitVec.toNat_inj.symm

@[simp] theorem State.afterTick_cidx (s : State) :
    s.afterTick.cidx = if s.lc = 1#8 then s.stepColour.cidx else s.cidx := by
  rw [State.afterTick_eq]

/-- From `CIDX = 0` some value `v` is the decremented colour, and the wrap rule reads it as any other (log 8). -/
theorem State.stepColour_fields_of_zero {s : State} (h : s.cidx = 0#4) :
    ∃ v : Nibble, s.stepColour.mask = (if v = 0#4 then s.mask + 1#8 else s.mask) ∧
      s.stepColour.cidx = (if v = 0#4 then 15#4 else v) := by
  obtain ⟨v, hv⟩ := State.stepColour_of_zero h
  refine ⟨v, ?_⟩
  rw [hv]
  split
  · exact ⟨rfl, rfl⟩
  · exact ⟨rfl, rfl⟩

/-- Settles O26: the whole state of a TICK, with the colour step's fields from `CIDX = 0` put in. -/
theorem tickFromColourZero : Obligations.TickFromColourZero := by
  intro s h
  obtain ⟨v, hmask, hcidx⟩ := State.stepColour_fields_of_zero h
  refine ⟨v, if s.lc = 1#8 then s.stepColour.draws else s.draws, ?_⟩
  rw [exec_tick, State.afterTick_eq, hmask, hcidx, h, ite_and]

section
variable {s : State}

theorem State.afterTick_lc_toNat_of_jump (h : s.lc.toNat = 1) : s.afterTick.lc.toNat = 63 := by
  rw [State.afterTick_lc, if_pos (s.lc_eq_one_iff.2 h)]
  rfl

theorem State.afterTick_lc_toNat_of_no_jump (h : s.lc.toNat ≠ 1) :
    s.afterTick.lc.toNat = (s.lc.toNat + 255) % 256 := by
  rw [State.afterTick_lc, if_neg (mt s.lc_eq_one_iff.1 h)]
  bv_omega

/-- No jump: the colour and `MASK` are held. -/
theorem State.afterTick_colour_of_no_jump (h : s.lc.toNat ≠ 1) :
    s.afterTick.cidx = s.cidx ∧ s.afterTick.mask = s.mask := by
  simp only [State.afterTick_cidx, State.afterTick_mask, if_neg (mt s.lc_eq_one_iff.1 h), and_self]

/-- A jump from a colour above 1: the colour steps down, and `MASK` is held. -/
theorem State.afterTick_colour_of_jump (h : s.lc.toNat = 1) (hc : 2 ≤ s.cidx.toNat) :
    s.afterTick.cidx.toNat = s.cidx.toNat - 1 ∧ s.afterTick.mask = s.mask := by
  have notOne : s.cidx ≠ 1#4 := by bv_omega
  obtain ⟨hmask, hcidx, -⟩ := State.stepColour_fields_of_ne_zero (s := s) (by bv_omega)
  simp only [State.afterTick_cidx, State.afterTick_mask, if_pos (s.lc_eq_one_iff.2 h), hmask, hcidx, if_neg notOne,
    and_true]
  bv_omega

/-- A jump from colour 1: the colour wraps to 15, and `MASK` is incremented. -/
theorem State.afterTick_colour_of_wrap (h : s.lc.toNat = 1) (hc : s.cidx.toNat = 1) :
    s.afterTick.cidx.toNat = 15 ∧ s.afterTick.mask.toNat = (s.mask.toNat + 1) % 256 := by
  have isOne : s.cidx = 1#4 := BitVec.eq_of_toNat_eq hc
  obtain ⟨hmask, hcidx, -⟩ := State.stepColour_fields_of_ne_zero (s := s) (by bv_omega)
  simp only [State.afterTick_cidx, State.afterTick_mask, if_pos (s.lc_eq_one_iff.2 h), hmask, hcidx, if_pos isOne]
  exact ⟨rfl, BitVec.toNat_add s.mask 1#8⟩

end

/-- Settles O42: the cases of a TICK by `LC` and `CIDX`, in numbers. -/
theorem tickStepsTheCounterAndTheColour : Obligations.TickStepsTheCounterAndTheColour := by
  refine fun s _ => ⟨s.afterTick, exec_tick s, State.afterTick_lc_toNat_of_jump, fun above => ?_, fun zero => ?_,
    State.afterTick_colour_of_no_jump, State.afterTick_colour_of_jump, State.afterTick_colour_of_wrap⟩
  · rw [State.afterTick_lc_toNat_of_no_jump (by omega)]
    omega
  · rw [State.afterTick_lc_toNat_of_no_jump (by omega), zero]

/-- A jump from a legal colour never keeps the colour. -/
theorem State.afterTick_cidx_ne_of_jump {s : State} (h : s.lc.toNat = 1) (hc : 1 ≤ s.cidx.toNat) :
    s.afterTick.cidx ≠ s.cidx := by
  intro same
  obtain wraps | above : s.cidx.toNat = 1 ∨ 2 ≤ s.cidx.toNat := by omega
  · obtain ⟨hcidx, -⟩ := State.afterTick_colour_of_wrap h wraps
    rw [same] at hcidx
    omega
  · obtain ⟨hcidx, -⟩ := State.afterTick_colour_of_jump h above
    rw [same] at hcidx
    omega

/-- Settles O51: a step of `LC` by one turns its parity; 1 and 63, on the two sides of a jump, are both odd. -/
theorem interlaceBreaksOnlyAtTheJump : Obligations.InterlaceBreaksOnlyAtTheJump := by
  intro s hs
  obtain ⟨hc, h1, h63⟩ := (State.inRange_iff s).1 hs
  refine ⟨s.afterTick, exec_tick s, fun noJump => ?_, fun jumps => ?_⟩
  · have hlc : s.afterTick.lc.toNat = s.lc.toNat - 1 := by
      rw [State.afterTick_lc_toNat_of_no_jump noJump]
      omega
    have turns : (s.lc.toNat - 1) % 2 = 0 ↔ ¬s.lc.toNat % 2 = 0 := by omega
    refine ⟨hlc, ?_⟩
    rw [blank_eq, blank_eq, hlc, ← decide_not, decide_eq_decide]
    exact turns
  · have hlc : s.afterTick.lc.toNat = 63 := State.afterTick_lc_toNat_of_jump jumps
    refine ⟨hlc, ?_, ?_, State.afterTick_cidx_ne_of_jump jumps hc, ?_, ?_⟩
    · rw [blank_eq, jumps]
      rfl
    · rw [blank_eq, hlc]
      rfl
    · exact State.tickColour_of_odd (by rw [jumps])
    · exact State.tickColour_of_odd (by rw [hlc])

/-! ### The colour over a run of TICKs (R148) -/

/-- Settles O50: the cycle gives the colour and the counter after `k` TICKs; the counter's parity is that of the place in
the hold, turned. -/
theorem colourCyclesDownEvery63Ticks : Obligations.ColourCyclesDownEvery63Ticks := by
  rintro s k c rest hm hlc hc hp rfl
  obtain ⟨t, hrun, htm, htp, cycle⟩ := run_ticks_inCycle hm hlc hc (hp.trans (tickInputs_succ_append k rest))
  have hcounter : t.lc.toNat = 63 - k % 63 := by rw [cycle.lc, Nat.add_mul_mod_self_left]
  have hcolour : t.cidx.toNat = 15 - (15 - s.cidx.toNat + k / 63) % 15 := by
    rw [cycle.cidx, Nat.add_mul_div_left k (15 - s.cidx.toNat) (by decide), Nat.add_comm]
  have hnext : run (k + 1) s = .next t.afterTick.takeCommand := by
    rw [run_add 1 hrun, run_of_next 0 (step_tick htm htp), run_zero]
  refine ⟨t, t.afterTick.takeCommand, t.tickWrites, hrun, hcolour, hcounter, hnext, t.afterTick_trace,
    t.tickWrites_length, fun w hw => ?_⟩
  rw [t.tickWrites_colour w hw, ← hcolour, BitVec.ofNat_toNat, BitVec.setWidth_eq]
  split
  next even => exact State.tickColour_of_odd (by omega)
  next odd => exact State.tickColour_of_even (by omega)

end Sys2Proof.Machine

/-! The update sequencer (44_update_sequencer): the cells that a TICK's writes change, what the grid's contents cannot
reach, the TICKs that jump, and the source's own scenario. -/

namespace Sys2Proof.Machine

open Sys2Proof

/-! ### A TICK's cells (R165) -/

/-- A grid write sets its one cell. -/
theorem Memory.read_gridWrite (m : Memory) (w : GridWrite) (a : Nat) :
    Memory.read (Memory.gridWrite m w) a =
      if a = (gridAddress w.col w.row).toNat then some w.colour else Memory.read m a :=
  Memory.read_write m (gridAddress w.col w.row).toNat a w.colour

/-- Writes of one colour read alike in any order, over any store, canonical or not. -/
theorem Memory.read_gridWrites_perm {ws vs : List GridWrite} {c : Colour} (hp : ws.Perm vs)
    (hc : ∀ w ∈ vs, w.colour = c) (m : Memory) (a : Nat) :
    Memory.read (Memory.gridWrites m ws) a = Memory.read (Memory.gridWrites m vs) a := by
  have hc' : ∀ w ∈ ws, w.colour = c := fun w hw => hc w (hp.mem_iff.1 hw)
  simp only [Memory.read_gridWrites_of_colour hc', Memory.read_gridWrites_of_colour hc, hp.mem_iff]

/-- A TICK leaves every address that none of its writes names. -/
theorem State.read_afterTick_grid_of_unwritten {s : State} {a : Nat}
    (h : ∀ w ∈ s.tickWrites, a ≠ (gridAddress w.col w.row).toNat) :
    Memory.read s.afterTick.grid a = Memory.read s.grid a := by
  rw [State.afterTick_grid, Memory.read_gridWrites_of_colour s.tickWrites_colour, if_neg]
  rintro ⟨w, hw, ha⟩
  exact h w hw ha

/-- Settles O43: the four writes of a TICK share its colour, so what an address reads depends only on whether one of them
names it. -/
theorem tickWritesOnlyItsFourCells : Obligations.TickWritesOnlyItsFourCells := by
  refine ⟨Memory.read_gridWrite, fun s => ⟨s.afterTick, exec_tick s, s.afterTick_grid, ?_, ?_, fun ws hperm a => ?_⟩⟩
  · exact fun a => State.read_afterTick_grid_of_unwritten
  · exact fun w => State.afterTick_cell_of_write
  · rw [State.afterTick_grid]
    exact Memory.read_gridWrites_perm hperm s.tickWrites_colour s.grid a

/-! ### No feedback from the grid (R167) -/

/-- A TICK over another grid: the same registers and records, and the same writes applied to that grid. -/
theorem State.afterTick_withGrid (s : State) (g : Memory) :
    ({ s with grid := g } : State).afterTick = { s.afterTick with grid := Memory.gridWrites g s.tickWrites } := by
  simp only [State.afterTick_eq, State.stepColour_eq]
  rfl

/-- Settles O47: NOP and LOAD leave the grid they find, and TICK applies the same writes to it. -/
theorem noFeedbackFromTheGrid : Obligations.NoFeedbackFromTheGrid := by
  intro i s g
  cases i with
  | nop => exact ⟨s, g, exec_nop s, exec_nop _⟩
  | tick => exact ⟨_, _, exec_tick s, congrArg Host.Outcome.next (s.afterTick_withGrid g)⟩
  | load lx ly lmask lcidx llc =>
    obtain ⟨⟨hc, h1, h63⟩, e⟩ | ⟨illegal, e⟩ := exec_load_cases lx ly lmask lcidx llc s
    · exact ⟨_, g, e, exec_load_of_legal _ hc h1 h63⟩
    · exact ⟨_, g, e, exec_load_of_illegal _ illegal⟩

/-! ### The TICKs that jump (R161 to R163) -/

/-- `LC` over one TICK, by its place `p` in the cycle of 63. -/
theorem State.afterTick_lc_toNat_of_place {s : State} {p : Nat} (h : s.lc.toNat = 63 - p % 63) :
    s.afterTick.lc.toNat = 63 - (p + 1) % 63 := by
  by_cases jumps : s.lc.toNat = 1
  · rw [State.afterTick_lc_toNat_of_jump jumps]
    omega
  · rw [State.afterTick_lc_toNat_of_no_jump jumps]
    omega

/-- After `j` TICKs from a legal `LC`, its place in the cycle of 63 is `j` further. -/
theorem run_ticks_lc {s : State} {j : Nat} {rest : List HostInput} (hm : s.refusal = none) (h1 : 1 ≤ s.lc.toNat)
    (h63 : s.lc.toNat ≤ 63) (hp : s.pending = tickInputs j ++ rest) :
    ∃ t, run j s = .next t ∧ t.lc.toNat = 63 - (63 - s.lc.toNat + j) % 63 := by
  have start : s.lc.toNat = 63 - (63 - s.lc.toNat + 0) % 63 := by omega
  obtain ⟨t, hrun, -, -, hlc⟩ := run_ticks (P := fun j t => t.lc.toNat = 63 - (63 - s.lc.toNat + j) % 63)
    (fun _ _ h => State.afterTick_lc_toNat_of_place h) start hm hp
  exact ⟨t, hrun, hlc⟩

/-- From `LC = n`, TICK number `j + 1` is a jump where `j + 1` is `n` or a number of whole cycles after it. -/
theorem run_ticks_jump_iff {s : State} {j : Nat} {rest : List HostInput} (hm : s.refusal = none)
    (h1 : 1 ≤ s.lc.toNat) (h63 : s.lc.toNat ≤ 63) (hp : s.pending = tickInputs j ++ rest) :
    ∃ t, run j s = .next t ∧ (t.lc.toNat = 1 ↔ s.lc.toNat ≤ j + 1 ∧ 63 ∣ (j + 1 - s.lc.toNat)) := by
  obtain ⟨t, hrun, hlc⟩ := run_ticks_lc hm h1 h63 hp
  refine ⟨t, hrun, ?_⟩
  rw [hlc]
  omega

/-- Settles O48: a launch is the case `LC = 63`, where a cycle of 63 begins with the first TICK. -/
theorem jumpFiresEvery63Ticks : Obligations.JumpFiresEvery63Ticks := by
  refine ⟨fun s j rest hm h1 h63 hp => run_ticks_jump_iff hm h1 h63 hp, fun sx sy smask scolor j hseed => ?_⟩
  rw [launch_of_legal sx sy smask _ hseed]
  obtain ⟨t, hrun, hjump⟩ := run_ticks_jump_iff
    (s := { State.reset.loadRegisters sx sy smask scolor 63#8 with pending := tickInputs (j + 1) })
    rfl (show 1 ≤ (63#8).toNat by decide) (show (63#8).toNat ≤ 63 by decide)
    ((List.append_nil _).symm.trans (tickInputs_succ_append j []))
  have wholeCycles : (63 ≤ j + 1 ∧ 63 ∣ (j + 1 - 63)) ↔ 63 ∣ (j + 1) := by omega
  exact ⟨t, hrun, hjump.trans wholeCycles⟩

/-! ### The source's scenario (R168, 95_test_vectors L1.1) -/

/-- Where both coordinates rescale to 0, the four writes are one write to the centre (42_symmetry_mapper R124). -/
theorem State.tickWrites_at_centre {s : State} (hx : s.nextX.toNat / 8 = 0) (hy : s.nextY.toNat / 8 = 0) :
    s.tickWrites = List.replicate 4 ⟨32#6, 32#6, s.tickColour⟩ := by
  rw [State.tickWrites_eq, hx, hy]
  rfl

/-- Such a TICK changes the centre cell alone. -/
theorem State.afterTick_cell_at_centre {s : State} (hx : s.nextX.toNat / 8 = 0) (hy : s.nextY.toNat / 8 = 0)
    (col row : BitVec 6) :
    s.afterTick.cell col row = if col = 32#6 ∧ row = 32#6 then some s.tickColour else s.cell col row := by
  simp [State.afterTick_cell, State.tickWrites_at_centre hx hy]

/-- Settles O27: with `MASK = 0` the TICK draws at the centre and does not move, and it jumps from there. -/
theorem sourceScenario : Obligations.SourceScenario := by
  intro s hx hy hmask hcidx hlc
  have hnx : s.nextX = 0#8 := (State.nextX_of_mask_zero hmask).trans hx
  have hny : s.nextY = 0#8 := (State.nextY_of_mask_zero hmask).trans hy
  have hcolour : s.tickColour = white := by
    rw [State.tickColour_of_odd (by rw [hlc]; rfl), hcidx, pal, paletteOf_fifteen]
  have hgx : s.nextX.toNat / 8 = 0 := by rw [hnx]; rfl
  have hgy : s.nextY.toNat / 8 = 0 := by rw [hny]; rfl
  obtain ⟨hcidx', hmask'⟩ := State.afterTick_colour_of_jump (s := s) (by rw [hlc]; rfl) (by rw [hcidx]; decide)
  refine ⟨s.afterTick, exec_tick s, ?_, ?_, hmask'.trans hmask, ?_, ?_, ?_, ?_, fun col row other => ?_⟩
  · rw [State.afterTick_x, if_pos hlc, hnx]
    rfl
  · rw [State.afterTick_y, if_pos hlc, hny]
    rfl
  · rw [hcidx] at hcidx'
    exact BitVec.eq_of_toNat_eq hcidx'
  · rw [State.afterTick_lc, if_pos hlc]
  · rw [State.tickWrites_at_centre hgx hgy, hcolour]
    rfl
  · rw [State.afterTick_cell_at_centre hgx hgy, if_pos ⟨rfl, rfl⟩, hcolour]
    rfl
  · rw [State.afterTick_cell_at_centre hgx hgy, if_neg other]

end Sys2Proof.Machine

/-! What holds where nothing runs: after a refusal the run is over and its mark stands (60_exceptions R181,
70_reset_and_hazards R208), and the block is idle without a command or with a NOP (R191). -/

namespace Sys2Proof.Machine

open Sys2Proof

/-! ### The refusal mark (R181, R208) -/

/-- The first refusal is the one kept: a later one does not replace the mark, and nothing clears it. -/
theorem mark_keptByOperations (m : RefusalMark) : KeptByOperations fun s => s.refusal = some m where
  tick {s} hs := s.afterTick_refusal.trans hs
  load _ _ _ _ _ _ _ _ hs := hs
  refuse r hs := by rw [State.refuse_of_some r hs, hs]
  takeCommand hs := hs
  takeReset hs := hs

theorem afterSteps_of_mark {s : State} {m : RefusalMark} (hm : s.refusal = some m) (n : Nat) : afterSteps n s = s := by
  cases n with
  | zero => rfl
  | succ n => rw [afterSteps, step_of_mark hm]

/-- Settles O14: a step from a marked state stops, and each operation keeps the mark. -/
theorem refusedRunGoesNoFurther : Obligations.RefusedRunGoesNoFurther :=
  ⟨fun _ _ hm => step_of_mark hm,
    fun _ _ n hm => afterSteps_of_mark hm n,
    fun _ _ m i hm h => (mark_keptByOperations m).keeps_exec i hm h,
    fun _ m sx sy smask scolor hm => (mark_keptByOperations m).keeps_applyReset sx sy smask scolor hm⟩

/-! ### The idle block (R191) -/

/-- NOP answers the state itself, so its step moves the host's stream and nothing else. -/
theorem step_nop {s : State} {rest : List HostInput} (hm : s.refusal = none)
    (hp : s.pending = .command 0x0000000000#40 :: rest) :
    step s = .next { s with pending := rest, position := s.position + 1 } := by
  obtain ⟨next, -, -⟩ := stepRunsTheDecodedCommand s 0x0000000000#40 rest .nop hm hp (decode_encode .nop)
  exact next s (exec_nop s)

/-- Settles O20: with nothing pending, and with a NOP pending. -/
theorem idleKeepsTheState : Obligations.IdleKeepsTheState :=
  fun _ hm => ⟨step_idle hm, fun _ => step_nop hm⟩

end Sys2Proof.Machine

/-! Resets and the ends of runs (70_reset_and_hazards R200, R201, R203, R208): a run stands still after its first
refusal and after its last input, a reset loads the seeds or refuses them, and every launch meets the invariant. -/

namespace Sys2Proof.Machine

open Sys2Proof

/-! ### A run in two parts (R208) -/

theorem afterSteps_of_next {s t : State} (n : Nat) (h : step s = .next t) : afterSteps (n + 1) s = afterSteps n t := by
  rw [afterSteps, h]

theorem afterSteps_add (k n : Nat) (s : State) : afterSteps (k + n) s = afterSteps n (afterSteps k s) := by
  induction k generalizing s with
  | zero => rw [Nat.zero_add, afterSteps]
  | succ k ih =>
    cases hm : s.refusal with
    | some m => rw [afterSteps_of_mark hm, afterSteps_of_mark hm, afterSteps_of_mark hm]
    | none =>
      obtain ⟨t, ht⟩ := step_answers hm
      rw [Nat.add_right_comm, afterSteps_of_next (k + n) ht, afterSteps_of_next k ht, ih]

/-- Settles O15: the steps past the refusal start from a marked state, which they keep. -/
theorem runEndsAtItsFirstRefusal : Obligations.RunEndsAtItsFirstRefusal := by
  intro s m k n hm hkn
  obtain ⟨more, rfl⟩ := Nat.exists_eq_add_of_le hkn
  rw [afterSteps_add, afterSteps_of_mark hm]

/-! ### A run through its inputs (R208, 60_exceptions R191) -/

section
variable {s t : State}

theorem runWord_keeps_pending {w : CommandWord} (h : runWord w s = .next t) : t.pending = s.pending := by
  obtain ⟨i, -, e⟩ | ⟨r, -, e⟩ := runWord_cases w s <;> rw [e] at h
  · exact (exec_keeps_inputs h).1
  · cases h
    exact State.refuse_pending s r

@[simp] theorem State.applyReset_pending (s : State) (sx sy smask : Byte) (scolor : Nibble) :
    (s.applyReset sx sy smask scolor).pending = s.pending := by
  obtain ⟨-, e⟩ | ⟨-, e⟩ := s.applyReset_cases sx sy smask scolor <;> rw [e]
  · exact State.loadRegisters_pending s sx sy smask scolor 63#8
  · exact State.refuse_pending s .illegalSeed

/-- Every step that goes on takes one input, if there is one. -/
theorem step_pending (h : step s = .next t) : t.pending = s.pending.tail := by
  obtain ⟨-, ⟨hp, rfl⟩ | ⟨sx, sy, smask, scolor, -, -, rfl⟩ | ⟨w, -, u, -, hu, rfl⟩⟩ := step_next_cases h
  · rw [hp, List.tail_nil]
  · rw [State.takeReset_pending, State.applyReset_pending]
  · rw [State.takeCommand_pending, runWord_keeps_pending hu]

/-- The run is over: a refusal ended it, or its inputs are used up. -/
def State.isOver (s : State) : Prop := s.refusal ≠ none ∨ s.pending = []

theorem afterSteps_of_isOver (h : s.isOver) (n : Nat) : afterSteps n s = s := by
  cases hm : s.refusal with
  | some m => exact afterSteps_of_mark hm n
  | none =>
    have idle : step s = .next s := step_idle hm (h.resolve_left (not_not.2 hm))
    induction n with
    | zero => rfl
    | succ n ih => rw [afterSteps_of_next n idle, ih]

/-- Each step uses up an input or ends at a refusal, so as many steps as inputs bring the run to its end. -/
theorem isOver_afterSteps_of_length_le {n : Nat} (h : s.pending.length ≤ n) : (afterSteps n s).isOver := by
  induction n generalizing s with
  | zero => exact .inr (List.eq_nil_of_length_eq_zero (Nat.le_zero.1 h))
  | succ n ih =>
    cases hm : s.refusal with
    | some m =>
      rw [afterSteps_of_mark hm]
      exact .inl (by simp [hm])
    | none =>
      obtain ⟨t, ht⟩ := step_answers hm
      have shorter : t.pending.length ≤ n := by
        rw [step_pending ht, List.length_tail]
        omega
      rw [afterSteps_of_next n ht]
      exact ih shorter

/-- Steps past the last input change nothing. -/
theorem afterSteps_of_length_le {n : Nat} (h : s.pending.length ≤ n) :
    afterSteps n s = afterSteps s.pending.length s := by
  obtain ⟨more, rfl⟩ := Nat.exists_eq_add_of_le h
  rw [afterSteps_add, afterSteps_of_isOver (isOver_afterSteps_of_length_le (Nat.le_refl _))]

end

/-- Settles O16: a launch's pending inputs are the given ones, and the run is over when they are used up or refused. -/
theorem runIsOverWhenItsInputsAre : Obligations.RunIsOverWhenItsInputsAre :=
  fun sx sy smask scolor inputs _ h =>
    congrArg State.observe (afterSteps_of_length_le (s := launch sx sy smask scolor inputs) h)

/-! ### A reset loads its seeds or refuses them (R200, R201, R203) -/

theorem State.applyReset_of_zero_colour (s : State) (sx sy smask : Byte) {scolor : Nibble} (h : scolor.toNat = 0) :
    s.applyReset sx sy smask scolor = s.refuse .illegalSeed := by
  obtain ⟨legal, -⟩ | ⟨-, e⟩ := s.applyReset_cases sx sy smask scolor
  · omega
  · exact e

section
variable {s : State} {sx sy smask : Byte} {scolor : Nibble} {rest : List HostInput}

/-- A step at a reset with legal seeds. -/
theorem step_legal_reset (hm : s.refusal = none) (hp : s.pending = .reset sx sy smask scolor :: rest)
    (h : 1 ≤ scolor.toNat) :
    step s = .next { s with x := sx, y := sy, mask := smask, cidx := scolor, lc := 63#8, pending := rest } := by
  rw [step_reset hm hp, State.applyReset_of_legal s sx sy smask h]
  simp only [State.takeReset, State.loadRegisters, hp, List.tail_cons]

/-- A step at a reset with the colour seed 0. -/
theorem step_refused_reset (hm : s.refusal = none) (hp : s.pending = .reset sx sy smask scolor :: rest)
    (h : scolor.toNat = 0) :
    step s = .next { s with refusal := some ⟨.illegalSeed, s.position⟩, pending := rest } := by
  rw [step_reset hm hp, State.applyReset_of_zero_colour s sx sy smask h, State.refuse_of_none .illegalSeed hm]
  simp only [State.takeReset, hp, List.tail_cons]

end

/-- Settles O17: a legal reset is one load of the five registers, on its own and as a step. -/
theorem resetLoadsTheSeeds : Obligations.ResetLoadsTheSeeds := by
  refine ⟨fun s sx sy smask scolor h => ?_, fun s sx sy smask scolor rest h hm hp => step_legal_reset hm hp h, rfl, rfl⟩
  rw [State.applyReset_of_legal s sx sy smask h]
  exact ⟨rfl, rfl⟩

/-- Settles O18: the recorded index is that of the next command word (log 6). -/
theorem resetTakesEverySeedButZeroColour : Obligations.ResetTakesEverySeedButZeroColour :=
  fun s _ _ _ _ _ hm hp =>
    ⟨fun h => ⟨_, step_legal_reset hm hp h, rfl, rfl, rfl, rfl⟩,
      fun h => ⟨_, s.position, step_refused_reset hm hp h, rfl⟩⟩

/-- Settles O19: both load the five registers, as 63 is a counter that LOAD takes. -/
theorem resetEqualsLoadOf63 : Obligations.ResetEqualsLoadOf63 := by
  intro s sx sy smask scolor h
  rw [exec_load_of_legal s h (by decide) (by decide), State.applyReset_of_legal s sx sy smask h]

/-! ### The invariant at the start of a run (R200, R208) -/

theorem reset_inv : State.reset.Inv where
  inRange := (State.inRange_iff _).2 (by decide)
  gridWf := Memory.wf_nil
  edgeEmpty _ := ⟨Memory.read_nil _, Memory.read_nil _⟩
  fourRecords _ hrecs := absurd hrecs List.not_mem_nil
  markIndex _ hm := nomatch hm

/-- The invariant does not read the inputs to come. -/
theorem State.Inv.withPending {s : State} (hs : s.Inv) (inputs : List HostInput) :
    ({ s with pending := inputs } : State).Inv where
  inRange := hs.inRange
  gridWf := hs.gridWf
  edgeEmpty := hs.edgeEmpty
  fourRecords := hs.fourRecords
  markIndex := hs.markIndex

/-- Settles O53: a launch is a reset of the reset state, which keeps the invariant, with the inputs put in place. -/
theorem resetMeetsTheInvariant : Obligations.ResetMeetsTheInvariant :=
  ⟨reset_inv, fun sx sy smask scolor inputs _ =>
    (inv_keptByOperations.keeps_applyReset sx sy smask scolor reset_inv).withPending inputs⟩

end Sys2Proof.Machine
